-- ==== Sys2Proof/Word.lean ====
section
/-!
DEFINITION. The machine's words and the types of its storage (00_scope.md R4, R7): bytes, 16-bit words, the fields of an
instruction word, register numbers and the pixel grid.
-/

namespace Sys2Proof

/-- An 8-bit unsigned value: a general register, a memory byte, the field NN. -/
abbrev Byte := BitVec 8

/-- A 16-bit unsigned value: I, PC, a call-stack slot, an instruction word. -/
abbrev Word := BitVec 16

/-- The 12-bit field NNN; it always names an address of memory (20_memory.md R31). -/
abbrev Addr12 := BitVec 12

/-- A 4-bit field of an instruction word. -/
abbrev Nibble := BitVec 4

/-- A register number, 0 to 15, naming V0 to VF (10_state.md R11). -/
abbrev Reg := Fin 16

/-- The pixel grid `PX[y][x]`: 32 rows of 64 one-bit pixels, `true` for a lit pixel (10_state.md R19). -/
abbrev Grid := Vector (Vector Bool 64) 32

end Sys2Proof
end

