-- ==== Sys2Proof/Config.lean ====
section
/-!
DEFINITION. The implementation parameters of 00_scope.md R4. The sizes are constants; the two parameters the spec leaves
OPEN (`RND`, `PX_RESET`) are opaque constants, so that no proof can see a value of either.
-/

namespace Sys2Proof

/-- `MEM_SIZE`: bytes of memory; the addresses are 0x000 to 0xFFF. -/
def Config.memSize : Nat := 4096

/-- `PROG_BASE`: the load address and the reset value of PC. -/
def Config.progBase : Nat := 0x200

/-- `MAX_ROM`: the longest program image, 3583 bytes (90_conflicts.md C4: not 3584). -/
def Config.maxRom : Nat := 3583

/-- `STACK_CAP`: call-stack slots. -/
def Config.stackCap : Nat := 16

/-- Pixels in a row of the grid. -/
def Config.gridW : Nat := 64

/-- Rows of the grid. -/
def Config.gridH : Nat := 32

/-- The flag register, VF = V[15] (10_state.md R12). -/
def Config.flagReg : Reg := 15

/-- `RND`, OPEN: the `n`-th free byte. A CXNN step draws the one its state's `draws` counter names. FREE VALUE, log entry 3
(10_state.md R21, 42_alu.md R105, decision D7). -/
opaque Config.randomByte : Nat → Byte

/-- `PX_RESET`, OPEN: what the grid holds after a reset; the argument tells one reset from another. FREE VALUE, log entry 4
(10_state.md R23, decision D10). -/
opaque Config.pxReset : Nat → Grid

end Sys2Proof
end

