-- ==== Sys2Proof/Syntax.lean ====
section
/-!
DEFINITION. The 33 instructions of 30_encoding.md R56, one constructor per row of spec/opcode_table.json, in the table's
order. A field holds exactly the values its bits can hold (R53), so every term is an instruction.
-/

namespace Sys2Proof

/-- An instruction of R56. Each docstring gives the row's pattern, the spec's mnemonic and its rule. -/
inductive Instr where
  /-- 00E0 `CLS`, R120. -/
  | cls
  /-- 00EE `RET`, R81. -/
  | ret
  /-- 1NNN `JP NNN`, R82. -/
  | jp (nnn : Addr12)
  /-- 2NNN `CALL NNN`, R83. -/
  | call (nnn : Addr12)
  /-- 3XNN `SE VX, NN`, R85. -/
  | seImm (x : Reg) (nn : Byte)
  /-- 4XNN `SNE VX, NN`, R86. -/
  | sneImm (x : Reg) (nn : Byte)
  /-- 5XY0 `SE VX, VY`, R87. -/
  | seReg (x y : Reg)
  /-- 9XY0 `SNE VX, VY`, R88. -/
  | sneReg (x y : Reg)
  /-- 6XNN `LD VX, NN`, R92. -/
  | ldImm (x : Reg) (nn : Byte)
  /-- 7XNN `ADD VX, NN`, R93. -/
  | addImm (x : Reg) (nn : Byte)
  /-- 8XY0 `LD VX, VY`, R94. -/
  | ldReg (x y : Reg)
  /-- 8XY1 `OR VX, VY`, R95. -/
  | orReg (x y : Reg)
  /-- 8XY2 `AND VX, VY`, R96. -/
  | andReg (x y : Reg)
  /-- 8XY3 `XOR VX, VY`, R97. -/
  | xorReg (x y : Reg)
  /-- 8XY4 `ADD VX, VY`, R98. -/
  | addReg (x y : Reg)
  /-- 8XY5 `SUB VX, VY`, R99. -/
  | subReg (x y : Reg)
  /-- 8XY6 `SHR VX`, R100; the field `y` is kept because the word has it, and no value of it matters (R57). -/
  | shr (x y : Reg)
  /-- 8XY7 `SUBN VX, VY`, R101. -/
  | subnReg (x y : Reg)
  /-- 8XYE `SHL VX`, R102; the field `y` as in `shr` (R57). -/
  | shl (x y : Reg)
  /-- ANNN `LD I, NNN`, R111. -/
  | ldI (nnn : Addr12)
  /-- BNNN `JP V0, NNN`, R84. -/
  | jpV0 (nnn : Addr12)
  /-- CXNN `RND VX, NN`, R105. -/
  | rnd (x : Reg) (nn : Byte)
  /-- DXYN `DRW VX, VY, N`, R126. -/
  | drw (x y : Reg) (n : Nibble)
  /-- EX9E `SKP VX`, R130; `x` is not looked at (R57). -/
  | skp (x : Reg)
  /-- EXA1 `SKNP VX`, R131; `x` is not looked at (R57). -/
  | sknp (x : Reg)
  /-- FX07 `LD VX, DT`, R132; `x` is not looked at (R57). -/
  | ldVxDt (x : Reg)
  /-- FX15 `LD DT, VX`, R133; `x` is not looked at (R57). -/
  | ldDtVx (x : Reg)
  /-- FX18 `LD ST, VX`, R134; `x` is not looked at (R57). -/
  | ldStVx (x : Reg)
  /-- FX1E `ADD I, VX`, R112. -/
  | addI (x : Reg)
  /-- FX29 `LD F, VX`, R135; `x` is not looked at (R57). -/
  | ldF (x : Reg)
  /-- FX33 `LD B, VX`, R113. -/
  | ldB (x : Reg)
  /-- FX55 `LD [I], VX`, R114. -/
  | store (x : Reg)
  /-- FX65 `LD VX, [I]`, R115. -/
  | load (x : Reg)
  deriving DecidableEq, Repr

end Sys2Proof
end

