-- ==== Sys2Proof/WellFormed.lean ====
section
/-!
DEFINITION. What is well formed. A term of `Instr` needs no check: its fields hold exactly what the word's bits hold (R53).
The checks are on what comes from outside: a 16-bit word is an instruction when it matches a row of the table of
30_encoding.md R56; a program image is accepted when it is short enough (70_reset_and_hazards.md R172); a sprite is a
sequence of at most 15 rows (44_display.md R121).
-/

namespace Sys2Proof

/-- A row of the opcode map: the word `w` is this row's instruction when `w AND mask == pattern` (R56). -/
structure Row where
  mnemonic : String
  mask : Word
  pattern : Word
  deriving DecidableEq, Repr

/-- Rows 1 to 19 of R56: control flow, registers and ALU. -/
def opcodeRowsLow : List Row := [
  { mnemonic := "CLS", mask := 0xFFFF, pattern := 0x00E0 },
  { mnemonic := "RET", mask := 0xFFFF, pattern := 0x00EE },
  { mnemonic := "JP_NNN", mask := 0xF000, pattern := 0x1000 },
  { mnemonic := "CALL_NNN", mask := 0xF000, pattern := 0x2000 },
  { mnemonic := "SE_VX__NN", mask := 0xF000, pattern := 0x3000 },
  { mnemonic := "SNE_VX__NN", mask := 0xF000, pattern := 0x4000 },
  { mnemonic := "SE_VX__VY", mask := 0xF00F, pattern := 0x5000 },
  { mnemonic := "SNE_VX__VY", mask := 0xF00F, pattern := 0x9000 },
  { mnemonic := "LD_VX__NN", mask := 0xF000, pattern := 0x6000 },
  { mnemonic := "ADD_VX__NN", mask := 0xF000, pattern := 0x7000 },
  { mnemonic := "LD_VX__VY", mask := 0xF00F, pattern := 0x8000 },
  { mnemonic := "OR_VX__VY", mask := 0xF00F, pattern := 0x8001 },
  { mnemonic := "AND_VX__VY", mask := 0xF00F, pattern := 0x8002 },
  { mnemonic := "XOR_VX__VY", mask := 0xF00F, pattern := 0x8003 },
  { mnemonic := "ADD_VX__VY", mask := 0xF00F, pattern := 0x8004 },
  { mnemonic := "SUB_VX__VY", mask := 0xF00F, pattern := 0x8005 },
  { mnemonic := "SHR_VX", mask := 0xF00F, pattern := 0x8006 },
  { mnemonic := "SUBN_VX__VY", mask := 0xF00F, pattern := 0x8007 },
  { mnemonic := "SHL_VX", mask := 0xF00F, pattern := 0x800E } ]

/-- Rows 20 to 33 of R56: index, random, display, stubs and transfers. -/
def opcodeRowsHigh : List Row := [
  { mnemonic := "LD_I__NNN", mask := 0xF000, pattern := 0xA000 },
  { mnemonic := "JP_V0__NNN", mask := 0xF000, pattern := 0xB000 },
  { mnemonic := "RND_VX__NN", mask := 0xF000, pattern := 0xC000 },
  { mnemonic := "DRW_VX__VY__N", mask := 0xF000, pattern := 0xD000 },
  { mnemonic := "SKP_VX", mask := 0xF0FF, pattern := 0xE09E },
  { mnemonic := "SKNP_VX", mask := 0xF0FF, pattern := 0xE0A1 },
  { mnemonic := "LD_VX__DT", mask := 0xF0FF, pattern := 0xF007 },
  { mnemonic := "LD_DT__VX", mask := 0xF0FF, pattern := 0xF015 },
  { mnemonic := "LD_ST__VX", mask := 0xF0FF, pattern := 0xF018 },
  { mnemonic := "ADD_I__VX", mask := 0xF0FF, pattern := 0xF01E },
  { mnemonic := "LD_F__VX", mask := 0xF0FF, pattern := 0xF029 },
  { mnemonic := "LD_B__VX", mask := 0xF0FF, pattern := 0xF033 },
  { mnemonic := "LD__I___VX", mask := 0xF0FF, pattern := 0xF055 },
  { mnemonic := "LD_VX___I", mask := 0xF0FF, pattern := 0xF065 } ]

/-- The opcode map of R56, all 33 rows in the spec's order. -/
def opcodeTable : List Row := opcodeRowsLow ++ opcodeRowsHigh

/-- The selection test of R56. -/
def Row.selects (r : Row) (w : Word) : Bool := w &&& r.mask == r.pattern

/-- The word is one of the 33 instructions; every other word is undefined (R58, R59). -/
def wordDefined (w : Word) : Bool := opcodeTable.any fun r => r.selects w

/-- The place of an instruction's row in `opcodeTable`, counted from 0. -/
def Instr.rowIndex : Instr → Fin 33
  | .cls => 0
  | .ret => 1
  | .jp _ => 2
  | .call _ => 3
  | .seImm _ _ => 4
  | .sneImm _ _ => 5
  | .seReg _ _ => 6
  | .sneReg _ _ => 7
  | .ldImm _ _ => 8
  | .addImm _ _ => 9
  | .ldReg _ _ => 10
  | .orReg _ _ => 11
  | .andReg _ _ => 12
  | .xorReg _ _ => 13
  | .addReg _ _ => 14
  | .subReg _ _ => 15
  | .shr _ _ => 16
  | .subnReg _ _ => 17
  | .shl _ _ => 18
  | .ldI _ => 19
  | .jpV0 _ => 20
  | .rnd _ _ => 21
  | .drw _ _ _ => 22
  | .skp _ => 23
  | .sknp _ => 24
  | .ldVxDt _ => 25
  | .ldDtVx _ => 26
  | .ldStVx _ => 27
  | .addI _ => 28
  | .ldF _ => 29
  | .ldB _ => 30
  | .store _ => 31
  | .load _ => 32

/-- The image fits the program space: at most 3583 bytes (R172). -/
def romFits (rom : List Byte) : Bool := decide (rom.length ≤ Config.maxRom)

/-- The sprite has at most 15 rows (R121). -/
def spriteFits (rows : List Byte) : Bool := decide (rows.length ≤ 15)

end Sys2Proof
end

