-- ==== Sys2Proof/Decode.lean ====
section
/-!
DEFINITION. The decoder (30_encoding.md R51 to R60), total on every word and refusing an undefined word by name, and after
it the encoder, written from the formats of R52. Byte order is decided here, once (20_memory.md R33).
-/

namespace Sys2Proof

/-- What the decoder answers for a word that no row of R56 selects (R59). -/
inductive DecodeError where
  /-- The word is none of the 33 instructions; the step that fetched it raises `UndefinedOpcode`. -/
  | undefinedOpcode (opcode : Word)
  deriving DecidableEq, Repr

/-- `MEM[PC] ++ MEM[PC+1]`: the byte at the lower address gives bits 15 to 8 (R33). -/
def joinWord (hi lo : Byte) : Word := hi ++ lo

/-- The byte of a word that lies at the lower address (R33). -/
def highByte (w : Word) : Byte := w.extractLsb' 8 8

/-- The byte of a word that lies at the higher address (R33). -/
def lowByte (w : Word) : Byte := w.extractLsb' 0 8

/-- `class`, bits 15 to 12 (R51). -/
def fieldClass (w : Word) : Nibble := w.extractLsb' 12 4

/-- `X`, bits 11 to 8, a register number (R51). -/
def fieldX (w : Word) : Reg := (w.extractLsb' 8 4).toFin

/-- `Y`, bits 7 to 4, a register number (R51). -/
def fieldY (w : Word) : Reg := (w.extractLsb' 4 4).toFin

/-- `N`, bits 3 to 0 (R51). -/
def fieldN (w : Word) : Nibble := w.extractLsb' 0 4

/-- `NN`, bits 7 to 0 (R51). -/
def fieldNN (w : Word) : Byte := w.extractLsb' 0 8

/-- `NNN`, bits 11 to 0 (R51). -/
def fieldNNN (w : Word) : Addr12 := w.extractLsb' 0 12

/-- Class 0x0: all of the word is compared (R55). -/
def decodeClass0 (w : Word) : Except DecodeError Instr :=
  match (fieldNNN w).toNat with
  | 0x0E0 => .ok .cls
  | 0x0EE => .ok .ret
  | _ => .error (.undefinedOpcode w)

/-- Class 0x5: N must be 0 (R55). -/
def decodeClass5 (w : Word) : Except DecodeError Instr :=
  match (fieldN w).toNat with
  | 0x0 => .ok (.seReg (fieldX w) (fieldY w))
  | _ => .error (.undefinedOpcode w)

/-- Class 0x8: N selects one of nine operations (R55). -/
def decodeClass8 (w : Word) : Except DecodeError Instr :=
  match (fieldN w).toNat with
  | 0x0 => .ok (.ldReg (fieldX w) (fieldY w))
  | 0x1 => .ok (.orReg (fieldX w) (fieldY w))
  | 0x2 => .ok (.andReg (fieldX w) (fieldY w))
  | 0x3 => .ok (.xorReg (fieldX w) (fieldY w))
  | 0x4 => .ok (.addReg (fieldX w) (fieldY w))
  | 0x5 => .ok (.subReg (fieldX w) (fieldY w))
  | 0x6 => .ok (.shr (fieldX w) (fieldY w))
  | 0x7 => .ok (.subnReg (fieldX w) (fieldY w))
  | 0xE => .ok (.shl (fieldX w) (fieldY w))
  | _ => .error (.undefinedOpcode w)

/-- Class 0x9: N must be 0 (R55). -/
def decodeClass9 (w : Word) : Except DecodeError Instr :=
  match (fieldN w).toNat with
  | 0x0 => .ok (.sneReg (fieldX w) (fieldY w))
  | _ => .error (.undefinedOpcode w)

/-- Class 0xE: NN selects one of the two key skips (R55). -/
def decodeClassE (w : Word) : Except DecodeError Instr :=
  match (fieldNN w).toNat with
  | 0x9E => .ok (.skp (fieldX w))
  | 0xA1 => .ok (.sknp (fieldX w))
  | _ => .error (.undefinedOpcode w)

/-- Class 0xF: NN selects one of eight operations (R55). -/
def decodeClassF (w : Word) : Except DecodeError Instr :=
  match (fieldNN w).toNat with
  | 0x07 => .ok (.ldVxDt (fieldX w))
  | 0x15 => .ok (.ldDtVx (fieldX w))
  | 0x18 => .ok (.ldStVx (fieldX w))
  | 0x1E => .ok (.addI (fieldX w))
  | 0x29 => .ok (.ldF (fieldX w))
  | 0x33 => .ok (.ldB (fieldX w))
  | 0x55 => .ok (.store (fieldX w))
  | 0x65 => .ok (.load (fieldX w))
  | _ => .error (.undefinedOpcode w)

/-- The decoder: the class first, then the sub-selector where the class has one (R55). -/
def decode (w : Word) : Except DecodeError Instr :=
  match (fieldClass w).toNat with
  | 0x0 => decodeClass0 w
  | 0x1 => .ok (.jp (fieldNNN w))
  | 0x2 => .ok (.call (fieldNNN w))
  | 0x3 => .ok (.seImm (fieldX w) (fieldNN w))
  | 0x4 => .ok (.sneImm (fieldX w) (fieldNN w))
  | 0x5 => decodeClass5 w
  | 0x6 => .ok (.ldImm (fieldX w) (fieldNN w))
  | 0x7 => .ok (.addImm (fieldX w) (fieldNN w))
  | 0x8 => decodeClass8 w
  | 0x9 => decodeClass9 w
  | 0xA => .ok (.ldI (fieldNNN w))
  | 0xB => .ok (.jpV0 (fieldNNN w))
  | 0xC => .ok (.rnd (fieldX w) (fieldNN w))
  | 0xD => .ok (.drw (fieldX w) (fieldY w) (fieldN w))
  | 0xE => decodeClassE w
  | _ => decodeClassF w

/-- The decoder on the two bytes of an instruction as memory holds them. -/
def decodeBytes (hi lo : Byte) : Except DecodeError Instr := decode (joinWord hi lo)

/-- Format A: class, NNN (R52). -/
def encodeA (c : Nibble) (nnn : Addr12) : Word := c ++ nnn

/-- Format XI: class, X, NN (R52). -/
def encodeXI (c : Nibble) (x : Reg) (nn : Byte) : Word := c ++ ((BitVec.ofFin x : Nibble) ++ nn : Addr12)

/-- Formats XY and XYN: class, X, Y, and the selector or count N (R52). -/
def encodeXYN (c : Nibble) (x y : Reg) (n : Nibble) : Word :=
  c ++ ((BitVec.ofFin x : Nibble) ++ ((BitVec.ofFin y : Nibble) ++ n : Byte) : Addr12)

/-- The encoder: the word of an instruction, from the patterns of R56. -/
def encode : Instr → Word
  | .cls => 0x00E0
  | .ret => 0x00EE
  | .jp nnn => encodeA 0x1 nnn
  | .call nnn => encodeA 0x2 nnn
  | .seImm x nn => encodeXI 0x3 x nn
  | .sneImm x nn => encodeXI 0x4 x nn
  | .seReg x y => encodeXYN 0x5 x y 0x0
  | .sneReg x y => encodeXYN 0x9 x y 0x0
  | .ldImm x nn => encodeXI 0x6 x nn
  | .addImm x nn => encodeXI 0x7 x nn
  | .ldReg x y => encodeXYN 0x8 x y 0x0
  | .orReg x y => encodeXYN 0x8 x y 0x1
  | .andReg x y => encodeXYN 0x8 x y 0x2
  | .xorReg x y => encodeXYN 0x8 x y 0x3
  | .addReg x y => encodeXYN 0x8 x y 0x4
  | .subReg x y => encodeXYN 0x8 x y 0x5
  | .shr x y => encodeXYN 0x8 x y 0x6
  | .subnReg x y => encodeXYN 0x8 x y 0x7
  | .shl x y => encodeXYN 0x8 x y 0xE
  | .ldI nnn => encodeA 0xA nnn
  | .jpV0 nnn => encodeA 0xB nnn
  | .rnd x nn => encodeXI 0xC x nn
  | .drw x y n => encodeXYN 0xD x y n
  | .skp x => encodeXI 0xE x 0x9E
  | .sknp x => encodeXI 0xE x 0xA1
  | .ldVxDt x => encodeXI 0xF x 0x07
  | .ldDtVx x => encodeXI 0xF x 0x15
  | .ldStVx x => encodeXI 0xF x 0x18
  | .addI x => encodeXI 0xF x 0x1E
  | .ldF x => encodeXI 0xF x 0x29
  | .ldB x => encodeXI 0xF x 0x33
  | .store x => encodeXI 0xF x 0x55
  | .load x => encodeXI 0xF x 0x65

/-- The word whose bits `spec/opcode_table.json` numbers as `w`: its `nbits` bits, every bit above them 0. An instruction is
one word (R50), so bits 15 to 0 of `w` are the whole of it. -/
def tableWord (nbits w : Nat) : Word := BitVec.ofNat 16 (w % 2 ^ nbits)

/-- The instruction the decoder reads from a table word laid out in memory, the high byte at the lower address (R33). -/
def decodeTableWord (nbits w : Nat) : Option Instr :=
  match decodeBytes (highByte (tableWord nbits w)) (lowByte (tableWord nbits w)) with
  | .ok i => some i
  | .error _ => none

end Sys2Proof
end

