-- ==== Sys2Proof/Machine/State.lean ====
section
/-!
DEFINITION. The state of the machine (10_state.md R10), the reasons a step can go wrong (60_exceptions.md R140), the status
latch (R20), and the state after reset (R23).
-/

namespace Sys2Proof.Machine

/-- The fault records of R140. A step that raises one takes it: the record goes into the status latch and the step answers a
next state (`raise` in Machine/Ops.lean, log entry 1), so the model's own outcome `Host.Outcome.fault` is never given. Each
is raised before anything is written, so each is safe where the spec chose it (decisions D3, D4, D13, D14: toward
unprovable). -/
inductive Fault where
  /-- Raised by the step that fetches a word outside the 33 instructions (R141). Safe. -/
  | undefinedOpcode (opcode pc : Word)
  /-- Raised by 2NNN when SP = 16 (R142). Safe. -/
  | stackOverflow (opcode pc : Word)
  /-- Raised by 00EE when SP = 0 (R143). Safe. -/
  | stackUnderflow (opcode pc : Word)
  /-- Raised by the fetch of a step when PC > 0xFFE (R144). Safe. -/
  | fetchOutOfRange (pc : Word)
  /-- Raised by DXYN with N > 0, FX33, FX55 and FX65 when an address of the transfer is above 0xFFF; `addr` is the lowest such
  address (R145). Safe. -/
  | addressOutOfRange (addr : Nat) (opcode pc : Word)
  deriving DecidableEq, Repr

/-- Reasons to give an instruction no meaning. -/
inductive Refusal where
  /-- An instruction of the table that the model gives no meaning; raised by no arm of `exec`, since every row has one.
  Safe. -/
  | notModelled (mnemonic : String)
  deriving DecidableEq, Repr

/-- The status latch (R20). -/
inductive Status where
  /-- Steps execute. -/
  | running
  /-- A step has raised this fault; only a reset leaves this value. -/
  | faulted (f : Fault)
  deriving DecidableEq, Repr

/-- Memory `MEM` (R18): the bytes that are not 0x00, as (address, byte) pairs with strictly rising addresses. -/
abbrev Memory := List Host.Cell

/-- What an unlisted address reads as: the reset contents, 0x00 (R23). -/
def Memory.unlisted : Byte := 0x00

/-- The canonical form above a lower bound: addresses rise strictly from `lo`, lie in 0x000 to 0xFFF, and hold no byte equal
to what an unlisted address reads as. -/
def Memory.wfFrom : Nat → Memory → Bool
  | _, [] => true
  | lo, (a, b) :: m => decide (lo ≤ a) && decide (a < Config.memSize) && !(b == Memory.unlisted) && Memory.wfFrom (a + 1) m

/-- The canonical form of memory, in which equal memories are equal lists. -/
def Memory.wf (m : Memory) : Bool := Memory.wfFrom 0 m

/-- The state record of R10. -/
structure State where
  /-- MEM, 4096 bytes (R18). -/
  mem : Memory
  /-- V0 to VF (R11); VF is `v[15]` (R12). -/
  v : Vector Byte 16
  /-- The index register I (R13). -/
  i : Word
  /-- The program counter (R14). -/
  pc : Word
  /-- The stack pointer, 0 to 16 (R17). -/
  sp : Fin 17
  /-- The call stack (R17). -/
  stack : Vector Word 16
  /-- The pixel grid, stored outside the core and carried here (R19). -/
  px : Grid
  /-- The status latch (R20). -/
  status : Status
  /-- The MODEL's own field, not the spec's: how many free values have been drawn (log entry 3). -/
  draws : Nat
  deriving DecidableEq, Repr

/-- The reset values of R23 with an empty image; `n` numbers the reset, so that each may find another grid (R24, log
entry 23). -/
def State.boot (n : Nat) : State where
  mem := []
  v := Vector.replicate 16 0x00
  i := 0x0000
  pc := BitVec.ofNat 16 Config.progBase
  sp := 0
  stack := Vector.replicate 16 0x0000
  px := Config.pxReset n
  status := .running
  draws := n

/-- The machine right after `Reset(rom)` with the empty image, L = 0 (R23, R172; log entry 7). -/
def State.reset : State := State.boot 0

end Sys2Proof.Machine
end

