-- ==== Sys2Proof/Machine/Operands.lean ====
section
/-!
DEFINITION. Reading and writing operands: memory bytes, general registers and their ranges (10_state.md R11, 20_memory.md
R30 to R38, 30_encoding.md R53).
-/

namespace Sys2Proof.Machine

/-- `zext_16(v)` (00_scope.md R8): zero bits on the left up to 16 bits. -/
def zext16 {n : Nat} (v : BitVec n) : Word := v.setWidth 16

/-- The byte at an address. An address above 0xFFF has no byte: every access is checked before it is made (R36, R37), and
here it reads as an unlisted one. -/
def Memory.read : Memory → Nat → Byte
  | [], _ => Memory.unlisted
  | (k, b) :: m, a => if k = a then b else Memory.read m a

/-- Memory with one byte written; the canonical form is kept. -/
def Memory.write : Memory → Nat → Byte → Memory
  | [], a, b => if b = Memory.unlisted then [] else [(a, b)]
  | (k, c) :: m, a, b =>
    if a < k then (if b = Memory.unlisted then (k, c) :: m else (a, b) :: (k, c) :: m)
    else if a = k then (if b = Memory.unlisted then m else (a, b) :: m)
    else (k, c) :: Memory.write m a b

/-- The `n` bytes at `a`, `a + 1`, … (R34: element `k` at `a + k`). -/
def Memory.readBytes (m : Memory) (a n : Nat) : List Byte := (List.range n).map fun k => m.read (a + k)

/-- Memory with the bytes written at `a`, `a + 1`, … (R34). -/
def Memory.writeBytes : Memory → Nat → List Byte → Memory
  | m, _, [] => m
  | m, a, b :: bs => Memory.writeBytes (m.write a b) (a + 1) bs

/-- `MemRead(addr, 1)` of 00_scope.md R8, for an address that exists. -/
def State.readByte (s : State) (a : Nat) : Byte := s.mem.read a

/-- `V[k]` (R11). -/
def State.reg (s : State) (k : Reg) : Byte := s.v[k.val]

/-- `V[k] <- b` (R11: a write of one register changes no other). -/
def State.setReg (s : State) (k : Reg) (b : Byte) : State := { s with v := s.v.set k.val b }

/-- V0 to VX in order, the X + 1 bytes that FX55 stores (R114). -/
def State.regsTo (s : State) (x : Reg) : List Byte := s.v.toList.take (x.val + 1)

/-- The X + 1 bytes from address `a` on go to V0 to VX, the other registers keep their values (R115). -/
def State.loadRegsTo (s : State) (x : Reg) (a : Nat) : State :=
  { s with v := Vector.ofFn fun k : Reg => if k.val ≤ x.val then s.readByte (a + k.val) else s.reg k }

/-- The decimal digits of a byte, hundreds first, one digit in a byte (R113; log entry 11). -/
def bcdDigits (a : Byte) : List Byte :=
  [BitVec.ofNat 8 (a.toNat / 100), BitVec.ofNat 8 (a.toNat / 10 % 10), BitVec.ofNat 8 (a.toNat % 10)]

end Sys2Proof.Machine
end

