-- ==== Sys2Proof/Machine/Flags.lean ====
section
/-!
DEFINITION. The flag VF and the computations that define it (10_state.md R12, 42_alu.md R90, R91, R103). A flag is a
function of the two operands as read, never of the truncated result.
-/

namespace Sys2Proof.Machine

/-- A flag as a byte: 0x01 or 0x00 (R12; for the collision flag log entry 15). -/
def flagByte (b : Bool) : Byte := if b then 0x01 else 0x00

/-- The carry out of the 8-bit addition: the 9-bit sum exceeds 255 (R98). -/
def carryOut (a b : Byte) : Bool := decide (a.toNat + b.toNat > 255)

/-- No borrow in `a - b`: `a ≥ b` as unsigned numbers (R99, R101). -/
def noBorrow (a b : Byte) : Bool := decide (a.toNat ≥ b.toNat)

/-- The bit shifted out on the right (R100). -/
def bitOutRight (a : Byte) : Bool := a.getLsbD 0

/-- The bit shifted out on the left (R102). -/
def bitOutLeft (a : Byte) : Bool := a.getLsbD 7

/-- `V[15] <- flag` (R12). -/
def State.setFlag (s : State) (f : Bool) : State := s.setReg Config.flagReg (flagByte f)

/-- The two writes of a flag-defining instruction in the order of R91: the result, then the flag (log entry 5). -/
def State.setResultFlag (s : State) (x : Reg) (result : Byte) (f : Bool) : State := (s.setReg x result).setFlag f

end Sys2Proof.Machine
end

