-- ==== Sys2Proof/Machine/Ops.lean ====
section
/-!
DEFINITION. The operations the meanings share: advancing and setting PC, taking a fault, the bounds check of a transfer, the
call stack, fetching and decoding, and the answer of a step.
-/

namespace Sys2Proof.Machine

/-- What a meaning answers. -/
abbrev Result := Host.Outcome State Fault Refusal

/-- `PC <- PC + n`, on 16 bits (40_step.md R75). -/
def State.advance (s : State) (n : Word) : State := { s with pc := s.pc + n }

/-- The default PC rule, `PC <- PC + 2` (R75). -/
def State.nextInstr (s : State) : State := s.advance 2

/-- A skip: `PC <- PC + 4` when the condition holds, else `PC + 2` (R75, 41_control_flow.md R89). -/
def State.skipIf (s : State) (c : Bool) : State := s.advance (if c then 4 else 2)

/-- `PC <- target`, the target unchecked (R80). -/
def State.jumpTo (s : State) (target : Word) : State := { s with pc := target }

/-- `raise F`: taking a fault. The record goes into the status latch and nothing else changes: no register is saved, no mode
is switched, control goes nowhere (40_step.md R71, 60_exceptions.md R148). There is no return from a fault (R149); the host's
`Reset(rom)` is the only way on (Machine/Load.lean). -/
def raise (s : State) (f : Fault) : State := { s with status := .faulted f }

/-- The step of a faulted core changes no state (10_state.md R20, 60_exceptions.md R149). -/
def holdFaulted (s : State) : State := s

/-- The addresses I to I + n - 1 all exist; with n = 0 there is none to check (20_memory.md R37). -/
def State.transferFits (s : State) (n : Nat) : Bool := decide (n = 0 ∨ s.i.toNat + n ≤ Config.memSize)

/-- The fault of a transfer that does not fit: the lowest address of it above 0xFFF (R37, 60_exceptions.md R145). -/
def State.transferFault (s : State) (ins : Instr) : Fault :=
  .addressOutOfRange (max s.i.toNat Config.memSize) (encode ins) s.pc

/-- An instruction that accesses the `n` bytes from I on: all or nothing (R37). -/
def State.withTransfer (s : State) (ins : Instr) (n : Nat) (done : State) : Result :=
  if s.transferFits n then .next done else .next (raise s (s.transferFault ins))

/-- `STACK[SP] <- a; SP <- SP + 1`, unless the stack is full (10_state.md R17). -/
def State.push? (s : State) (a : Word) : Option State :=
  if h : s.sp.val < 16 then some { s with stack := s.stack.set s.sp.val a, sp := ⟨s.sp.val + 1, by omega⟩ } else none

/-- `SP <- SP - 1` and the value of `STACK[SP]`, unless the stack is empty; the slot keeps its value (R17). -/
def State.pop? (s : State) : Option (Word × State) :=
  if h : 0 < s.sp.val then
    some (s.stack[s.sp.val - 1]'(by omega), { s with sp := ⟨s.sp.val - 1, by omega⟩ })
  else none

/-- The fetch: the big-endian word at PC, or the fault when a byte of it does not exist (20_memory.md R33, R36). -/
def fetchWord (s : State) : Except Fault Word :=
  if s.pc.toNat + 1 < Config.memSize then .ok (joinWord (s.readByte s.pc.toNat) (s.readByte (s.pc.toNat + 1)))
  else .error (.fetchOutOfRange s.pc)

/-- Fetch and decode: steps 2 to 4 of 40_step.md R70. -/
def fetchInstr (s : State) : Except Fault Instr :=
  match fetchWord s with
  | .error f => .error f
  | .ok w =>
    match decode w with
    | .ok ins => .ok ins
    | .error (.undefinedOpcode opcode) => .error (.undefinedOpcode opcode s.pc)

/-- The answer of a step to the host (40_step.md R72). -/
inductive Answer where
  /-- The step completed. -/
  | ok
  /-- The step raised, or met, this fault. -/
  | fault (f : Fault)
  deriving DecidableEq, Repr

/-- The answer of the step that led to this state: the record in the latch, `ok` when there is none. A step that raises `f`
latches `f` (R71) and a step of a faulted core answers the record it holds (R20), so the latch tells the answer. -/
def State.answer (s : State) : Answer :=
  match s.status with
  | .running => .ok
  | .faulted f => .fault f

end Sys2Proof.Machine
end

