-- ==== Sys2Proof/Machine/Alu.lean ====
section
/-!
DEFINITION. The register and ALU instructions of 42_alu.md: 6XNN, 7XNN, 8XY0 to 8XY7, 8XYE and the random load CXNN. None
faults; each ends with PC + 2 (R90).
-/

namespace Sys2Proof.Machine

/-- 6XNN `LD VX, NN` (R92). -/
def execLdImm (x : Reg) (nn : Byte) (s : State) : Result := .next (s.setReg x nn).nextInstr

/-- 7XNN `ADD VX, NN` (R93): modulo 256, no flag. -/
def execAddImm (x : Reg) (nn : Byte) (s : State) : Result := .next (s.setReg x (s.reg x + nn)).nextInstr

/-- 8XY0 `LD VX, VY` (R94). -/
def execLdReg (x y : Reg) (s : State) : Result := .next (s.setReg x (s.reg y)).nextInstr

/-- 8XY1 `OR VX, VY` (R95): no flag. -/
def execOrReg (x y : Reg) (s : State) : Result := .next (s.setReg x (s.reg x ||| s.reg y)).nextInstr

/-- 8XY2 `AND VX, VY` (R96): no flag. -/
def execAndReg (x y : Reg) (s : State) : Result := .next (s.setReg x (s.reg x &&& s.reg y)).nextInstr

/-- 8XY3 `XOR VX, VY` (R97): no flag. -/
def execXorReg (x y : Reg) (s : State) : Result := .next (s.setReg x (s.reg x ^^^ s.reg y)).nextInstr

/-- 8XY4 `ADD VX, VY` (R98): VF is the carry. -/
def execAddReg (x y : Reg) (s : State) : Result :=
  .next (s.setResultFlag x (s.reg x + s.reg y) (carryOut (s.reg x) (s.reg y))).nextInstr

/-- 8XY5 `SUB VX, VY` (R99): VF is 1 when there is no borrow. -/
def execSubReg (x y : Reg) (s : State) : Result :=
  .next (s.setResultFlag x (s.reg x - s.reg y) (noBorrow (s.reg x) (s.reg y))).nextInstr

/-- 8XY6 `SHR VX` (R100): a logical shift of VX in place; the field Y is ignored. -/
def execShr (x _y : Reg) (s : State) : Result :=
  .next (s.setResultFlag x (s.reg x >>> 1) (bitOutRight (s.reg x))).nextInstr

/-- 8XY7 `SUBN VX, VY` (R101): 8XY5 with the operand roles exchanged. -/
def execSubnReg (x y : Reg) (s : State) : Result :=
  .next (s.setResultFlag x (s.reg y - s.reg x) (noBorrow (s.reg y) (s.reg x))).nextInstr

/-- 8XYE `SHL VX` (R102): a shift of VX in place; the field Y is ignored. -/
def execShl (x _y : Reg) (s : State) : Result :=
  .next (s.setResultFlag x (s.reg x <<< 1) (bitOutLeft (s.reg x))).nextInstr

/-- The step's random byte and the state in which the next one is another (10_state.md R21; free value, log entry 3). -/
def State.drawByte (s : State) : Byte × State := (Config.randomByte s.draws, { s with draws := s.draws + 1 })

/-- CXNN `RND VX, NN` (R105): VX is not read. -/
def execRnd (x : Reg) (nn : Byte) (s : State) : Result :=
  .next (s.drawByte.2.setReg x (nn &&& s.drawByte.1)).nextInstr

end Sys2Proof.Machine
end

