-- ==== Sys2Proof/Machine/ControlFlow.lean ====
section
/-!
DEFINITION. The control-flow instructions of 41_control_flow.md: 00EE, 1NNN, 2NNN, BNNN, 3XNN, 4XNN, 5XY0, 9XY0.
-/

namespace Sys2Proof.Machine

/-- 00EE `RET` (R81): PC is the popped value plus 2 (90_conflicts.md C2). -/
def execRet (s : State) : Result :=
  match s.pop? with
  | some (a, t) => .next (t.jumpTo (a + 2))
  | none => .next (raise s (.stackUnderflow (encode .ret) s.pc))

/-- 1NNN `JP NNN` (R82). -/
def execJp (nnn : Addr12) (s : State) : Result := .next (s.jumpTo (zext16 nnn))

/-- 2NNN `CALL NNN` (R83): the address pushed is the call's own. -/
def execCall (nnn : Addr12) (s : State) : Result :=
  match s.push? s.pc with
  | some t => .next (t.jumpTo (zext16 nnn))
  | none => .next (raise s (.stackOverflow (encode (.call nnn)) s.pc))

/-- BNNN `JP V0, NNN` (R84): the sum is not reduced modulo 4096. -/
def execJpV0 (nnn : Addr12) (s : State) : Result := .next (s.jumpTo (zext16 (s.reg 0) + zext16 nnn))

/-- 3XNN `SE VX, NN` (R85). -/
def execSeImm (x : Reg) (nn : Byte) (s : State) : Result := .next (s.skipIf (s.reg x == nn))

/-- 4XNN `SNE VX, NN` (R86). -/
def execSneImm (x : Reg) (nn : Byte) (s : State) : Result := .next (s.skipIf (s.reg x != nn))

/-- 5XY0 `SE VX, VY` (R87). -/
def execSeReg (x y : Reg) (s : State) : Result := .next (s.skipIf (s.reg x == s.reg y))

/-- 9XY0 `SNE VX, VY` (R88). -/
def execSneReg (x y : Reg) (s : State) : Result := .next (s.skipIf (s.reg x != s.reg y))

end Sys2Proof.Machine
end

