-- ==== Sys2Proof/Machine/Compositor.lean ====
section
/-!
DEFINITION. The sprite compositor of 44_display.md R121 to R125: XOR of a sprite into the 64 by 32 grid, with wrap-around
and collision detection. Written as the loop of R125, row by row and column by column.
-/

namespace Sys2Proof.Machine

/-- `PX[y][x]`. -/
def pixel (g : Grid) (x : Fin 64) (y : Fin 32) : Bool := g[y.val][x.val]

/-- `PX[y][x] <- b`. -/
def setPixel (g : Grid) (x : Fin 64) (y : Fin 32) (b : Bool) : Grid := g.set y.val (g[y.val].set x.val b)

/-- `clear()`: every pixel false (R120). -/
def clearGrid : Grid := Vector.replicate 32 (Vector.replicate 64 false)

/-- The grid column of sprite column `c` drawn at `x`: `(x + c) mod 64` (R122). -/
def pixelCol (x : Byte) (c : Nat) : Fin 64 := ⟨(x.toNat + c) % 64, Nat.mod_lt _ (by decide)⟩

/-- The grid row of sprite row `r` drawn at `y`: `(y + r) mod 32` (R122). -/
def pixelRow (y : Byte) (r : Nat) : Fin 32 := ⟨(y.toNat + r) % 32, Nat.mod_lt _ (by decide)⟩

/-- The sprite bit of column `c`: bit `7 - c`, the most significant leftmost (R122). -/
def spriteBit (row : Byte) (c : Nat) : Bool := row.getLsbD (7 - c)

/-- One turn of the inner loop of R125: a set sprite bit toggles its pixel, and a pixel that was set is a collision. -/
def compositeBit (x y row : Byte) (r : Nat) (acc : Grid × Bool) (c : Nat) : Grid × Bool :=
  if spriteBit row c then
    (setPixel acc.1 (pixelCol x c) (pixelRow y r) (!pixel acc.1 (pixelCol x c) (pixelRow y r)),
      acc.2 || pixel acc.1 (pixelCol x c) (pixelRow y r))
  else acc

/-- The inner loop of R125: the eight columns of sprite row `r`. -/
def compositeRow (x y row : Byte) (r : Nat) (acc : Grid × Bool) : Grid × Bool :=
  (List.range 8).foldl (compositeBit x y row r) acc

/-- The outer loop of R125 from sprite row `r` on. -/
def compositeFrom (x y : Byte) : Nat → List Byte → Grid × Bool → Grid × Bool
  | _, [], acc => acc
  | r, row :: rows, acc => compositeFrom x y (r + 1) rows (compositeRow x y row r acc)

/-- `composite(x, y, rows)`: the grid afterwards and the collision bit (R125). -/
def composite (g : Grid) (x y : Byte) (rows : List Byte) : Grid × Bool := compositeFrom x y 0 rows (g, false)

end Sys2Proof.Machine
end

