-- ==== Sys2Proof/Machine/Display.lean ====
section
/-!
DEFINITION. The display instructions of 44_display.md: 00E0 and DXYN. They are the only ones that reach the grid (R127).
-/

namespace Sys2Proof.Machine

/-- 00E0 `CLS` (R120). -/
def execCls (s : State) : Result := .next { s with px := clearGrid }.nextInstr

/-- The N bytes I to I + N - 1 composited at (VX, VY), and the collision bit written to VF (R126). -/
def State.draw (s : State) (x y : Reg) (n : Nat) : State :=
  let out := composite s.px (s.reg x) (s.reg y) (s.mem.readBytes s.i.toNat n)
  { s with px := out.1 }.setFlag out.2

/-- DXYN `DRW VX, VY, N` (R126). -/
def execDrw (x y : Reg) (n : Nibble) (s : State) : Result :=
  s.withTransfer (.drw x y n) n.toNat (s.draw x y n.toNat).nextInstr

end Sys2Proof.Machine
end

