-- ==== Sys2Proof/Machine/IndexMemory.lean ====
section
/-!
DEFINITION. The index-register and memory-transfer instructions of 43_index_memory.md: ANNN, FX1E, FX33, FX55, FX65. No
transfer changes I (R110).
-/

namespace Sys2Proof.Machine

/-- ANNN `LD I, NNN` (R111). -/
def execLdI (nnn : Addr12) (s : State) : Result := .next { s with i := zext16 nnn }.nextInstr

/-- FX1E `ADD I, VX` (R112): modulo 2^16, no flag, no fault (log entry 10). -/
def execAddI (x : Reg) (s : State) : Result := .next { s with i := s.i + zext16 (s.reg x) }.nextInstr

/-- FX33 `LD B, VX` (R113): the three digits at I, I + 1, I + 2. -/
def execLdB (x : Reg) (s : State) : Result :=
  s.withTransfer (.ldB x) 3 { s with mem := s.mem.writeBytes s.i.toNat (bcdDigits (s.reg x)) }.nextInstr

/-- FX55 `LD [I], VX` (R114): V0 to VX to the bytes I to I + X. -/
def execStore (x : Reg) (s : State) : Result :=
  s.withTransfer (.store x) (x.val + 1) { s with mem := s.mem.writeBytes s.i.toNat (s.regsTo x) }.nextInstr

/-- FX65 `LD VX, [I]` (R115): the bytes I to I + X to V0 to VX. -/
def execLoad (x : Reg) (s : State) : Result :=
  s.withTransfer (.load x) (x.val + 1) (s.loadRegsTo x s.i.toNat).nextInstr

end Sys2Proof.Machine
end

