-- ==== Sys2Proof/Machine/Placeholders.lean ====
section
/-!
DEFINITION. The stubs and placeholders of 45_placeholders.md: EX9E, EXA1, FX07, FX15, FX18, FX29. Each is a real
instruction (R136), fully determined by its PC rule; none reads or writes anything else (log entry 12).
-/

namespace Sys2Proof.Machine

/-- EX9E `SKP VX` (R130): no key is ever pressed, so it never skips. -/
def execSkp (_x : Reg) (s : State) : Result := .next (s.skipIf false)

/-- EXA1 `SKNP VX` (R131): no key is ever pressed, so it always skips. -/
def execSknp (_x : Reg) (s : State) : Result := .next (s.skipIf true)

/-- FX07 `LD VX, DT` (R132): VX is not written. -/
def execLdVxDt (_x : Reg) (s : State) : Result := .next s.nextInstr

/-- FX15 `LD DT, VX` (R133). -/
def execLdDtVx (_x : Reg) (s : State) : Result := .next s.nextInstr

/-- FX18 `LD ST, VX` (R134). -/
def execLdStVx (_x : Reg) (s : State) : Result := .next s.nextInstr

/-- FX29 `LD F, VX` (R135): I is not written. -/
def execLdF (_x : Reg) (s : State) : Result := .next s.nextInstr

end Sys2Proof.Machine
end

