-- ==== Sys2Proof/Machine/Load.lean ====
section
/-!
DEFINITION. The host's transaction `Reset(rom)` (70_reset_and_hazards.md R170 to R173): it loads the image and resets every
register at once, or refuses the image. It is no step of the core.
-/

namespace Sys2Proof.Machine

/-- The answer of a refused `Reset(rom)` (60_exceptions.md R146): no machine exists then. -/
inductive LoadError where
  /-- The image is longer than 3583 bytes (R172). -/
  | romTooLarge (length : Nat)
  deriving DecidableEq, Repr

/-- The memory that holds the bytes at `a`, `a + 1`, … and 0x00 everywhere else (R171, R173). -/
def imageAt : Nat → List Byte → Memory
  | _, [] => []
  | a, b :: bs => if b = Memory.unlisted then imageAt (a + 1) bs else (a, b) :: imageAt (a + 1) bs

/-- The `n`-th construction of the machine from an image (R170). -/
def construct (n : Nat) (rom : List Byte) : Except LoadError State :=
  if romFits rom then .ok { State.boot n with mem := imageAt Config.progBase rom } else .error (.romTooLarge rom.length)

/-- `Reset(rom)` of a machine that stands in state `s`: nothing of `s` survives (R24); the counter of free values goes on, so
that the new run's free values are others (log entry 23). -/
def hostReset (rom : List Byte) (s : State) : Except LoadError State := construct (s.draws + 1) rom

end Sys2Proof.Machine
end

