-- ==== Sys2Proof/Machine/Step.lean ====
section
/-!
DEFINITION. One step (40_step.md R70), and the host's way to place a word where the next step fetches.
-/

namespace Sys2Proof.Machine

/-- `Step()`: a faulted core changes nothing; otherwise fetch, decode, execute, and a fault of the fetch or of the decoder is
taken by the same `raise` as an instruction's own (R70, R71). -/
def step (s : State) : Host.Outcome State Fault Refusal :=
  match s.status with
  | .faulted _ => .next (holdFaulted s)
  | .running =>
    match fetchInstr s with
    | .error f => .next (raise s f)
    | .ok ins => exec ins s

/-- `s` with the instruction word of `decodeTableWord` stored where the next step fetches: its two bytes at PC and PC + 1, high
byte first. The fetch needs a running core and a PC below 0xFFF; where `s` has neither they are set (log entry 7). -/
def State.withFetchWord (s : State) (nbits w : Nat) : State :=
  let pc := if s.pc.toNat + 1 < Config.memSize then s.pc else BitVec.ofNat 16 Config.progBase
  let word := tableWord nbits w
  { s with mem := s.mem.writeBytes pc.toNat [highByte word, lowByte word], pc := pc, status := .running }

end Sys2Proof.Machine
end

