-- ==== Sys2Proof/Safety.lean ====
section
/-!
DEFINITION. What counts as a good run, and the words the statements are written in: the normal and the wrong end of a run
(70_reset_and_hazards.md R181), the invariants of the state, the access table of the registers (10_state.md R11, R12), and
what an instruction leaves unchanged.
-/

namespace Sys2Proof.Machine

/-- A run has gone wrong: the latch holds a fault; never a normal end (R149, R181). -/
def GoneWrong (s : State) : Prop := ∃ f, s.status = .faulted f

/-- A run has ended normally: the core is running and the step maps the state to itself (R181; log entry 20). -/
def EndedNormally (s : State) : Prop := s.status = .running ∧ step s = .next s

/-- INVARIANT: memory is in its canonical form. -/
def MemCanonical (s : State) : Prop := s.mem.wf = true

/-- INVARIANT: PC is at most 0x10FE (R16) and every call-stack slot at most 0xFFE, the PC of a completed call (R22). -/
def PcAndStackBounded (s : State) : Prop := s.pc.toNat ≤ 0x10FE ∧ ∀ k : Fin 16, s.stack[k.val].toNat ≤ 0xFFE

/-- The `pc` a fault record carries (60_exceptions.md R140). -/
def Fault.pcOf : Fault → Word
  | .undefinedOpcode _ pc => pc
  | .stackOverflow _ pc => pc
  | .stackUnderflow _ pc => pc
  | .fetchOutOfRange pc => pc
  | .addressOutOfRange _ _ pc => pc

/-- INVARIANT: the record in the latch carries the PC the machine still holds (R140, R148). -/
def RecordAtPc (s : State) : Prop := ∀ f, s.status = .faulted f → f.pcOf = s.pc

/-- The word at PC as a number, the byte at PC in the high place (20_memory.md R33); of use where the fetch succeeds. -/
def wordAtPc (s : State) : Nat := 256 * (s.readByte s.pc.toNat).toNat + (s.readByte (s.pc.toNat + 1)).toNat

/-- The selection table of 30_encoding.md R55 in its own words: the class and, where the class has one, its sub-selector N, NN or
NNN. -/
abbrev selectedByFields (c n nn nnn : Nat) : Prop :=
  (c = 0x0 ∧ (nnn = 0x0E0 ∨ nnn = 0x0EE)) ∨ c ∈ [0x1, 0x2, 0x3, 0x4, 0x6, 0x7, 0xA, 0xB, 0xC, 0xD] ∨
  (c = 0x5 ∧ n = 0x0) ∨ (c = 0x8 ∧ n ∈ [0x0, 0x1, 0x2, 0x3, 0x4, 0x5, 0x6, 0x7, 0xE]) ∨ (c = 0x9 ∧ n = 0x0) ∨
  (c = 0xE ∧ nn ∈ [0x9E, 0xA1]) ∨ (c = 0xF ∧ nn ∈ [0x07, 0x15, 0x18, 0x1E, 0x29, 0x33, 0x55, 0x65])

/-- The word is selected by the table of R55, its fields read as numbers. -/
abbrev selectedByClass (w : Word) : Prop :=
  selectedByFields (w.toNat / 0x1000) (w.toNat % 0x10) (w.toNat % 0x100) (w.toNat % 0x1000)

/-- The registers an instruction may write, from the access table of R11 and the flag table of R12. -/
def writesReg : Instr → Reg → Bool
  | .cls, _ => false
  | .ret, _ => false
  | .jp _, _ => false
  | .call _, _ => false
  | .seImm _ _, _ => false
  | .sneImm _ _, _ => false
  | .seReg _ _, _ => false
  | .sneReg _ _, _ => false
  | .ldImm x _, k => k == x
  | .addImm x _, k => k == x
  | .ldReg x _, k => k == x
  | .orReg x _, k => k == x
  | .andReg x _, k => k == x
  | .xorReg x _, k => k == x
  | .addReg x _, k => k == x || k == 15
  | .subReg x _, k => k == x || k == 15
  | .shr x _, k => k == x || k == 15
  | .subnReg x _, k => k == x || k == 15
  | .shl x _, k => k == x || k == 15
  | .ldI _, _ => false
  | .jpV0 _, _ => false
  | .rnd x _, k => k == x
  | .drw _ _ _, k => k == 15
  | .skp _, _ => false
  | .sknp _, _ => false
  | .ldVxDt _, _ => false
  | .ldDtVx _, _ => false
  | .ldStVx _, _ => false
  | .addI _, _ => false
  | .ldF _, _ => false
  | .ldB _, _ => false
  | .store _, _ => false
  | .load x, k => decide (k.val ≤ x.val)

/-- The registers an instruction reads, from the access table of R11. -/
def readsReg : Instr → Reg → Bool
  | .cls, _ => false
  | .ret, _ => false
  | .jp _, _ => false
  | .call _, _ => false
  | .seImm x _, k => k == x
  | .sneImm x _, k => k == x
  | .seReg x y, k => k == x || k == y
  | .sneReg x y, k => k == x || k == y
  | .ldImm _ _, _ => false
  | .addImm x _, k => k == x
  | .ldReg _ y, k => k == y
  | .orReg x y, k => k == x || k == y
  | .andReg x y, k => k == x || k == y
  | .xorReg x y, k => k == x || k == y
  | .addReg x y, k => k == x || k == y
  | .subReg x y, k => k == x || k == y
  | .shr x _, k => k == x
  | .subnReg x y, k => k == x || k == y
  | .shl x _, k => k == x
  | .ldI _, _ => false
  | .jpV0 _, k => k == 0
  | .rnd _ _, _ => false
  | .drw x y _, k => k == x || k == y
  | .skp _, _ => false
  | .sknp _, _ => false
  | .ldVxDt _, _ => false
  | .ldDtVx _, _ => false
  | .ldStVx _, _ => false
  | .addI x, k => k == x
  | .ldF _, _ => false
  | .ldB x, k => k == x
  | .store x, k => decide (k.val ≤ x.val)
  | .load _, _ => false

/-- Everything but the general registers and PC is as before: I, SP, every stack slot, every pixel, the status latch and
every byte of memory. -/
def KeepsAllButRegsAndPc (s t : State) : Prop :=
  t.i = s.i ∧ t.sp = s.sp ∧ t.stack = s.stack ∧ t.px = s.px ∧ t.status = s.status ∧ ∀ a, t.readByte a = s.readByte a

/-- Everything but PC is as before. -/
def KeepsAllButPc (s t : State) : Prop := (∀ k, t.reg k = s.reg k) ∧ KeepsAllButRegsAndPc s t

/-- Everything but memory and PC is as before. -/
def KeepsAllButMemAndPc (s t : State) : Prop :=
  (∀ k, t.reg k = s.reg k) ∧ t.i = s.i ∧ t.sp = s.sp ∧ t.stack = s.stack ∧ t.px = s.px ∧ t.status = s.status

/-- The state a faulting instruction or fetch leaves: the record latched, everything else as before (R148). -/
def faultedWith (s : State) (f : Fault) : State := { s with status := .faulted f }

/-- Apply `g` to the state of a next answer. -/
def onNext (g : State → State) : Result → Result
  | .next s => .next (g s)
  | .fault r => .fault r
  | .refused r => .refused r

/-- Execute instructions one after another, stopping where one gives no next state. -/
def execAll : List Instr → State → Result
  | [], s => .next s
  | ins :: rest, s =>
    match exec ins s with
    | .next t => execAll rest t
    | .fault r => .fault r
    | .refused r => .refused r

/-- Some set bit of the sprite, drawn at `(x, y)`, has its place at the pixel: row `r`, column `c`, bit `7 - c`
(44_display.md R122). -/
def SpriteCovers (x y : Byte) (rows : List Byte) (px : Fin 64) (py : Fin 32) : Prop :=
  ∃ r c : Nat, ∃ row : Byte, rows[r]? = some row ∧ c < 8 ∧ row.getLsbD (7 - c) = true ∧
    px.val = (x.toNat + c) % 64 ∧ py.val = (y.toNat + r) % 32

end Sys2Proof.Machine
end

