-- ==== Sys2Proof/Certificates/Slice0/Obligations.lean ====
section
/-!
DEFINITION. The statements about the model, from the spec's numbered rules. Each docstring names the rule it formalises; where
a clause rests on a decision the spec marks as its own (92_eei_decisions.md) or on a log entry, it says so.
-/

open Sys2Proof Sys2Proof.Machine

/-! ### Encoding (30_encoding.md) -/

/-- R51, R52, R56: decoding the encoding of an instruction gives it back, for every instruction and every operand. -/
def Obligations.DecodeOfEncodeIsIdentity : Prop := ∀ ins : Instr, decode (encode ins) = .ok ins

/-- R55, R57: a word that decodes is the encoding of what it decodes to, so no bit of it is lost (the ignored field Y of the
shifts included). -/
def Obligations.EncodeOfDecodeIsIdentity : Prop := ∀ (w : Word) (ins : Instr), decode w = .ok ins → encode ins = w

/-- R9: the word of each instruction, digit by digit as its pattern in R56 reads. -/
def Obligations.EncodingByHexDigits : Prop :=
  ∀ ins : Instr, (encode ins).toNat =
    match ins with
    | .cls => 0x00E0
    | .ret => 0x00EE
    | .jp nnn => 0x1000 + nnn.toNat
    | .call nnn => 0x2000 + nnn.toNat
    | .seImm x nn => 0x3000 + 0x100 * x.val + nn.toNat
    | .sneImm x nn => 0x4000 + 0x100 * x.val + nn.toNat
    | .seReg x y => 0x5000 + 0x100 * x.val + 0x10 * y.val
    | .sneReg x y => 0x9000 + 0x100 * x.val + 0x10 * y.val
    | .ldImm x nn => 0x6000 + 0x100 * x.val + nn.toNat
    | .addImm x nn => 0x7000 + 0x100 * x.val + nn.toNat
    | .ldReg x y => 0x8000 + 0x100 * x.val + 0x10 * y.val
    | .orReg x y => 0x8001 + 0x100 * x.val + 0x10 * y.val
    | .andReg x y => 0x8002 + 0x100 * x.val + 0x10 * y.val
    | .xorReg x y => 0x8003 + 0x100 * x.val + 0x10 * y.val
    | .addReg x y => 0x8004 + 0x100 * x.val + 0x10 * y.val
    | .subReg x y => 0x8005 + 0x100 * x.val + 0x10 * y.val
    | .shr x y => 0x8006 + 0x100 * x.val + 0x10 * y.val
    | .subnReg x y => 0x8007 + 0x100 * x.val + 0x10 * y.val
    | .shl x y => 0x800E + 0x100 * x.val + 0x10 * y.val
    | .ldI nnn => 0xA000 + nnn.toNat
    | .jpV0 nnn => 0xB000 + nnn.toNat
    | .rnd x nn => 0xC000 + 0x100 * x.val + nn.toNat
    | .drw x y n => 0xD000 + 0x100 * x.val + 0x10 * y.val + n.toNat
    | .skp x => 0xE09E + 0x100 * x.val
    | .sknp x => 0xE0A1 + 0x100 * x.val
    | .ldVxDt x => 0xF007 + 0x100 * x.val
    | .ldDtVx x => 0xF015 + 0x100 * x.val
    | .ldStVx x => 0xF018 + 0x100 * x.val
    | .addI x => 0xF01E + 0x100 * x.val
    | .ldF x => 0xF029 + 0x100 * x.val
    | .ldB x => 0xF033 + 0x100 * x.val
    | .store x => 0xF055 + 0x100 * x.val
    | .load x => 0xF065 + 0x100 * x.val

/-- The selection table of R55 (`selectedByClass`): which words are instructions, by class and sub-selector; every other word is
refused with the whole word. The literal reading of the patterns of classes 0x0, 0x5 and 0x9 is decision D14, the spec's own
choice (log entry 14). -/
def Obligations.DecodeSelectsByClassAndSelector : Prop :=
  ∀ w : Word, (selectedByClass w → ∃ ins, decode w = .ok ins) ∧
    (¬ selectedByClass w → decode w = .error (.undefinedOpcode w))

/-- R56, R58: an instruction's word is selected by its own row of the opcode map, no word is selected by two rows, and the
decoder refuses exactly the words that no row selects. -/
def Obligations.OpcodeMapRowsSelectWhatDecodes : Prop :=
  (∀ (w : Word) (ins : Instr), decode w = .ok ins → (opcodeTable.getD ins.rowIndex.val ⟨"", 0, 1⟩).selects w = true) ∧
  (∀ w : Word, wordDefined w = false ↔ decode w = .error (.undefinedOpcode w)) ∧
  (∀ (w : Word) (r r' : Row), r ∈ opcodeTable → r' ∈ opcodeTable → r.selects w = true → r'.selects w = true → r = r')

/-- 95_test_vectors.md 2.7: words of the spec, at least one of each family, and the same bytes swapped. -/
def Obligations.SpecWordsDecode : Prop :=
  decode 0x00E0 = .ok .cls ∧ decode 0x00EE = .ok .ret ∧ decode 0x2ABC = .ok (.call 0xABC) ∧
  decode 0x3A7F = .ok (.seImm 10 0x7F) ∧ decode 0x9AB0 = .ok (.sneReg 10 11) ∧ decode 0x7A7F = .ok (.addImm 10 0x7F) ∧
  decode 0x8AB4 = .ok (.addReg 10 11) ∧ decode 0x8ABE = .ok (.shl 10 11) ∧ decode 0xCA7F = .ok (.rnd 10 0x7F) ∧
  decode 0xFA33 = .ok (.ldB 10) ∧ decode 0xFA65 = .ok (.load 10) ∧ decode 0xEAA1 = .ok (.sknp 10) ∧
  decode 0xFA07 = .ok (.ldVxDt 10) ∧ decodeBytes 0xD5 0xA7 = .ok (.drw 5 10 7) ∧ decodeBytes 0xA7 0xD5 = .ok (.ldI 0x7D5)

/-! ### The step (40_step.md) and the faults (60_exceptions.md) -/

/-- R33 and R70: where a running core's PC is at most 0xFFE (any parity) and the two bytes at it, the first in the high place,
decode to an instruction, the step is the execution of that instruction. -/
def Obligations.StepRunsTheDecodedInstruction : Prop :=
  ∀ (s : State) (w : Word) (ins : Instr), s.status = .running → s.pc.toNat ≤ 0xFFE →
    w.toNat = 256 * (s.readByte s.pc.toNat).toNat + (s.readByte (s.pc.toNat + 1)).toNat →
    decode w = .ok ins → step s = exec ins s

/-- R59, R141: a fetched word that is no instruction latches `UndefinedOpcode` with that word and PC. That nothing else
changes rests on decision D13, the spec's own. -/
def Obligations.UndefinedWordFaults : Prop :=
  ∀ (s : State) (w : Word), s.status = .running → s.pc.toNat ≤ 0xFFE → w.toNat = wordAtPc s → wordDefined w = false →
    step s = .next (faultedWith s (.undefinedOpcode w s.pc))

/-- R36, R144 (decision D3, the spec's own): a PC above 0xFFE latches `FetchOutOfRange`; there is no wrap to 0x000. -/
def Obligations.FetchOutsideMemoryFaults : Prop :=
  ∀ s : State, s.status = .running → s.pc.toNat > 0xFFE → step s = .next (faultedWith s (.fetchOutOfRange s.pc))

/-- R20, R149 (decision D13, the spec's own): the step of a faulted core changes nothing and answers the latched record. That
the answer is read from the latch is log entry 2. -/
def Obligations.FaultedCoreStaysAsItIs : Prop :=
  ∀ (s : State) (f : Fault), s.status = .faulted f → step s = .next s ∧ s.answer = .fault f

/-- R71, R148 (that all state but PC is kept is decision D13, the spec's own): a step that raises a fault writes the status
latch and nothing else. -/
def Obligations.FaultWritesOnlyTheLatch : Prop :=
  ∀ (s t : State) (f : Fault), s.status = .running → step s = .next t → t.status = .faulted f → t = faultedWith s f

/-- R140 to R145, R147: the record a step latches tells its cause: the tag's condition held, `opcode` is the whole word at PC
and `pc` is PC. The bounds faults are decisions D3 and D4, the fields of the records D16, the spec's own. -/
def Obligations.EveryFaultRecordTellsItsCause : Prop :=
  ∀ (s t : State) (f : Fault), s.status = .running → step s = .next t → t.status = .faulted f →
    match f with
    | .fetchOutOfRange pc => pc = s.pc ∧ s.pc.toNat > 0xFFE
    | .undefinedOpcode opcode pc => pc = s.pc ∧ s.pc.toNat ≤ 0xFFE ∧ opcode.toNat = wordAtPc s ∧ wordDefined opcode = false
    | .stackOverflow opcode pc =>
        pc = s.pc ∧ s.pc.toNat ≤ 0xFFE ∧ opcode.toNat = wordAtPc s ∧ wordAtPc s / 0x1000 = 0x2 ∧ s.sp.val = 16
    | .stackUnderflow opcode pc =>
        pc = s.pc ∧ s.pc.toNat ≤ 0xFFE ∧ opcode.toNat = wordAtPc s ∧ wordAtPc s = 0x00EE ∧ s.sp.val = 0
    | .addressOutOfRange addr opcode pc =>
        pc = s.pc ∧ s.pc.toNat ≤ 0xFFE ∧ opcode.toNat = wordAtPc s ∧ addr = max s.i.toNat 0x1000 ∧
        ((wordAtPc s / 0x1000 = 0xD ∧ 0 < wordAtPc s % 0x10 ∧ s.i.toNat + wordAtPc s % 0x10 - 1 > 0xFFF) ∨
         (wordAtPc s / 0x1000 = 0xF ∧ wordAtPc s % 0x100 = 0x33 ∧ s.i.toNat + 2 > 0xFFF) ∨
         (wordAtPc s / 0x1000 = 0xF ∧ (wordAtPc s % 0x100 = 0x55 ∨ wordAtPc s % 0x100 = 0x65) ∧
           s.i.toNat + wordAtPc s / 0x100 % 0x10 > 0xFFF))

/-- R73: a step always ends: from every state it gives a next state. That a fault is a next state is log entry 1. -/
def Obligations.EveryStepGivesANextState : Prop := ∀ s : State, ∃ t, step s = .next t

/-! ### Invariants every step keeps -/

/-- The canonical form of memory, the model's own (log entry 8), is kept by every step: a store lies in 0x000 to 0xFFF
(R37). -/
def Obligations.StepKeepsMemoryCanonical : Prop := ∀ s t : State, MemCanonical s → step s = .next t → MemCanonical t

/-- R16, R22 (PC unreduced: decisions D18 and D25, the spec's own): PC stays at most 0x10FE and every stack slot at most
0xFFE. -/
def Obligations.StepKeepsPcAndStackBounds : Prop :=
  ∀ s t : State, PcAndStackBounded s → step s = .next t → PcAndStackBounded t

/-- R140, R148: the record in the latch carries the PC that the machine still holds. -/
def Obligations.StepKeepsRecordAtPc : Prop := ∀ s t : State, RecordAtPc s → step s = .next t → RecordAtPc t

/-- The three invariants hold at `State.reset`, whose values are those of R23 (I and STACK decision D12, the latch D13, the
spec's own) with the empty image (log entry 7). The canonical form of memory is the model's own (log entry 8). -/
def Obligations.ResetMeetsTheInvariants : Prop :=
  MemCanonical State.reset ∧ PcAndStackBounded State.reset ∧ RecordAtPc State.reset

/-! ### Reset and load (70_reset_and_hazards.md) -/

/-- R23: what `State.reset`, the reset with the empty image, leaves. I and STACK are decision D12, the latch D13, the spec's
own (log entry 17); nothing is said of the grid (PX_RESET, log entry 4). -/
def Obligations.ResetValues : Prop :=
  State.reset.pc = 0x0200 ∧ State.reset.sp = 0 ∧ State.reset.i = 0x0000 ∧ State.reset.status = .running ∧
  (∀ k, State.reset.reg k = 0x00) ∧ (∀ k : Fin 16, State.reset.stack[k.val] = 0x0000) ∧
  ∀ a, State.reset.readByte a = 0x00

/-- R171, R172: `Reset(rom)` accepts exactly the images of at most 3583 bytes, puts byte k at 0x200 + k, and its first two
bytes are the first word fetched, the first in the high place; a longer image gives no machine. Every other byte is zero (R23,
R173). That the memory it leaves is canonical is about the model's own form (log entry 8). -/
def Obligations.LoadPlacesTheImage : Prop :=
  ∀ (n : Nat) (rom : List Byte),
    (rom.length ≤ 3583 → ∃ s, construct n rom = .ok s ∧ MemCanonical s ∧
      (∀ (k : Nat) (b : Byte), rom[k]? = some b → s.readByte (0x200 + k) = b) ∧
      (∀ a, a < 0x200 ∨ 0x200 + rom.length ≤ a → s.readByte a = 0x00) ∧
      ∀ b0 b1 : Byte, rom[0]? = some b0 → rom[1]? = some b1 →
        ∃ w, fetchWord s = .ok w ∧ w.toNat = 256 * b0.toNat + b1.toNat) ∧
    (rom.length > 3583 → construct n rom = .error (.romTooLarge rom.length))

/-- R24: a new `Reset(rom)` leaves nothing of the old state: what it gives is the same whatever state it replaces, but for the
grid, and the registers have the values of R23. -/
def Obligations.ResetDiscardsTheOldState : Prop :=
  ∀ (rom : List Byte) (s s' t t' : State), hostReset rom s = .ok t → hostReset rom s' = .ok t' →
    t.mem = t'.mem ∧ t.v = t'.v ∧ t.i = t'.i ∧ t.pc = t'.pc ∧ t.sp = t'.sp ∧ t.stack = t'.stack ∧ t.status = t'.status

/-- R173: after a `Reset(rom)` of any machine, a faulted one too, the core is running at 0x200 with SP = 0, I = 0 and every
register and stack slot zero. I and STACK are decision D12, the latch D13, the spec's own. -/
def Obligations.ResetOfAnyMachineRestarts : Prop :=
  ∀ (rom : List Byte) (s : State), rom.length ≤ 3583 → ∃ t, hostReset rom s = .ok t ∧ t.status = .running ∧
    t.pc = 0x0200 ∧ t.sp = 0 ∧ t.i = 0x0000 ∧ (∀ k, t.reg k = 0x00) ∧ ∀ k : Fin 16, t.stack[k.val] = 0x0000

/-! ### Control flow (41_control_flow.md) -/

/-- R82: PC is NNN, and nothing else changes. -/
def Obligations.JumpSetsPc : Prop :=
  ∀ (nnn : Addr12) (s : State), ∃ t, exec (.jp nnn) s = .next t ∧ t.pc.toNat = nnn.toNat ∧ KeepsAllButPc s t

/-- R84: PC is V0 + NNN; that it is not reduced modulo 4096 is decision D25, the spec's own. -/
def Obligations.IndexedJumpAddsV0 : Prop :=
  ∀ (nnn : Addr12) (s : State), ∃ t, exec (.jpV0 nnn) s = .next t ∧ t.pc.toNat = (s.reg 0).toNat + nnn.toNat ∧
    KeepsAllButPc s t

/-- R85 to R88: the four skips; nothing but PC changes. -/
def Obligations.SkipsTestTheirCondition : Prop :=
  ∀ (x y : Reg) (nn : Byte) (s : State),
    (∃ t, exec (.seImm x nn) s = .next t ∧
      t.pc = (if (s.reg x).toNat = nn.toNat then s.pc + 4 else s.pc + 2) ∧ KeepsAllButPc s t) ∧
    (∃ t, exec (.sneImm x nn) s = .next t ∧
      t.pc = (if (s.reg x).toNat = nn.toNat then s.pc + 2 else s.pc + 4) ∧ KeepsAllButPc s t) ∧
    (∃ t, exec (.seReg x y) s = .next t ∧
      t.pc = (if (s.reg x).toNat = (s.reg y).toNat then s.pc + 4 else s.pc + 2) ∧ KeepsAllButPc s t) ∧
    (∃ t, exec (.sneReg x y) s = .next t ∧
      t.pc = (if (s.reg x).toNat = (s.reg y).toNat then s.pc + 2 else s.pc + 4) ∧ KeepsAllButPc s t)

/-- R83: with SP < 16 a call pushes its own address at slot SP, increments SP and jumps; with SP = 16 it latches
`StackOverflow` with its word and PC, and that nothing else changes then is decision D13, the spec's own. -/
def Obligations.CallPushesItsOwnAddress : Prop :=
  ∀ (nnn : Addr12) (s : State),
    (s.sp.val < 16 → ∃ t, exec (.call nnn) s = .next t ∧ t.sp.val = s.sp.val + 1 ∧ t.pc.toNat = nnn.toNat ∧
      (∀ k : Fin 16, t.stack[k.val] = if k.val = s.sp.val then s.pc else s.stack[k.val]) ∧
      (∀ k, t.reg k = s.reg k) ∧ t.i = s.i ∧ t.px = s.px ∧ t.status = s.status ∧ ∀ a, t.readByte a = s.readByte a) ∧
    (s.sp.val = 16 → ∃ w : Word, w.toNat = 0x2000 + nnn.toNat ∧
      exec (.call nnn) s = .next (faultedWith s (.stackOverflow w s.pc)))

/-- R81 (90_conflicts.md C2): with SP > 0 a return goes to the popped address plus 2; that the slot keeps its value is
decision D22, the spec's own. With SP = 0 it latches `StackUnderflow`, and that nothing else changes then is decision D13. -/
def Obligations.ReturnAddsTwoToThePoppedAddress : Prop :=
  ∀ s : State,
    (0 < s.sp.val → ∃ t, exec .ret s = .next t ∧ t.sp.val + 1 = s.sp.val ∧
      (∃ k : Fin 16, k.val + 1 = s.sp.val ∧ t.pc = s.stack[k.val] + 2) ∧ t.stack = s.stack ∧
      (∀ k, t.reg k = s.reg k) ∧ t.i = s.i ∧ t.px = s.px ∧ t.status = s.status ∧ ∀ a, t.readByte a = s.readByte a) ∧
    (s.sp.val = 0 → exec .ret s = .next (faultedWith s (.stackUnderflow 0x00EE s.pc)))

/-- The property the spec takes from its source in R81 and 95_test_vectors.md S3: from PC = p, a call and the return at its
target go on at p + 2 with SP as it was. Here over two steps of the machine. -/
def Obligations.CallThenReturnGoesOnAfterTheCall : Prop :=
  ∀ (s : State) (nnn : Nat), s.status = .running → s.pc.toNat ≤ 0xFFE → nnn ≤ 0xFFE → s.sp.val < 16 →
    wordAtPc s = 0x2000 + nnn → (s.readByte nnn).toNat = 0x00 → (s.readByte (nnn + 1)).toNat = 0xEE →
    ∃ t u, step s = .next t ∧ step t = .next u ∧ u.pc = s.pc + 2 ∧ u.sp = s.sp ∧ u.status = .running ∧
      (∀ k, u.reg k = s.reg k) ∧ u.i = s.i ∧ u.px = s.px ∧ ∀ a, u.readByte a = s.readByte a

/-- R142, R83 (95_test_vectors.md S8): from an empty stack sixteen calls, to any targets, complete and fill it; the
seventeenth latches `StackOverflow`. -/
def Obligations.SeventeenthCallOverflows : Prop :=
  ∀ (s : State) (targets : List Addr12) (last : Addr12), s.sp.val = 0 → targets.length = 16 →
    ∃ t, execAll (targets.map Instr.call) s = .next t ∧ t.sp.val = 16 ∧ t.status = s.status ∧
      exec (.call last) t = .next (faultedWith t (.stackOverflow (encode (.call last)) t.pc))

/-! ### Registers and ALU (42_alu.md) -/

/-- R92 to R97: the loads, the immediate add (modulo 256, no flag) and the bitwise operations write VX and PC alone. -/
def Obligations.LoadsAndLogicWriteVxAlone : Prop :=
  ∀ (x y : Reg) (nn : Byte) (s : State),
    (∃ t, exec (.ldImm x nn) s = .next t ∧ t.reg x = nn ∧
      (∀ k, k ≠ x → t.reg k = s.reg k) ∧ t.pc = s.pc + 2 ∧ KeepsAllButRegsAndPc s t) ∧
    (∃ t, exec (.addImm x nn) s = .next t ∧ (t.reg x).toNat = ((s.reg x).toNat + nn.toNat) % 256 ∧
      (∀ k, k ≠ x → t.reg k = s.reg k) ∧ t.pc = s.pc + 2 ∧ KeepsAllButRegsAndPc s t) ∧
    (∃ t, exec (.ldReg x y) s = .next t ∧ t.reg x = s.reg y ∧
      (∀ k, k ≠ x → t.reg k = s.reg k) ∧ t.pc = s.pc + 2 ∧ KeepsAllButRegsAndPc s t) ∧
    (∃ t, exec (.orReg x y) s = .next t ∧
      (∀ b, (t.reg x).getLsbD b = ((s.reg x).getLsbD b || (s.reg y).getLsbD b)) ∧
      (∀ k, k ≠ x → t.reg k = s.reg k) ∧ t.pc = s.pc + 2 ∧ KeepsAllButRegsAndPc s t) ∧
    (∃ t, exec (.andReg x y) s = .next t ∧
      (∀ b, (t.reg x).getLsbD b = ((s.reg x).getLsbD b && (s.reg y).getLsbD b)) ∧
      (∀ k, k ≠ x → t.reg k = s.reg k) ∧ t.pc = s.pc + 2 ∧ KeepsAllButRegsAndPc s t) ∧
    (∃ t, exec (.xorReg x y) s = .next t ∧
      (∀ b, (t.reg x).getLsbD b = ((s.reg x).getLsbD b != (s.reg y).getLsbD b)) ∧
      (∀ k, k ≠ x → t.reg k = s.reg k) ∧ t.pc = s.pc + 2 ∧ KeepsAllButRegsAndPc s t)

/-- R98: the sum modulo 256 and the carry. That with X = 15 the flag is what VF holds, and that with Y = 15 the operand is the
old VF, is R91, decision D1, the spec's own (log entry 5). -/
def Obligations.AddSetsSumAndCarry : Prop :=
  ∀ (x y : Reg) (s : State), ∃ t, exec (.addReg x y) s = .next t ∧
    (x ≠ 15 → (t.reg x).toNat = ((s.reg x).toNat + (s.reg y).toNat) % 256) ∧
    (t.reg 15).toNat = (if (s.reg x).toNat + (s.reg y).toNat > 255 then 1 else 0) ∧
    (∀ k, k ≠ x → k ≠ 15 → t.reg k = s.reg k) ∧ t.pc = s.pc + 2 ∧ KeepsAllButRegsAndPc s t

/-- R99, R101, R103: the difference modulo 256, and VF = 1 when there is no borrow; 8XY7 exchanges the operands and keeps the
destination. X = 15 and Y = 15 as R91, decision D1, the spec's own (log entry 5). -/
def Obligations.SubtractsSetDifferenceAndNoBorrow : Prop :=
  ∀ (x y : Reg) (s : State),
    (∃ t, exec (.subReg x y) s = .next t ∧
      (x ≠ 15 → (t.reg x).toNat =
        if (s.reg x).toNat ≥ (s.reg y).toNat then (s.reg x).toNat - (s.reg y).toNat
        else (s.reg x).toNat + 256 - (s.reg y).toNat) ∧
      (t.reg 15).toNat = (if (s.reg x).toNat ≥ (s.reg y).toNat then 1 else 0) ∧
      (∀ k, k ≠ x → k ≠ 15 → t.reg k = s.reg k) ∧ t.pc = s.pc + 2 ∧ KeepsAllButRegsAndPc s t) ∧
    (∃ t, exec (.subnReg x y) s = .next t ∧
      (x ≠ 15 → (t.reg x).toNat =
        if (s.reg y).toNat ≥ (s.reg x).toNat then (s.reg y).toNat - (s.reg x).toNat
        else (s.reg y).toNat + 256 - (s.reg x).toNat) ∧
      (t.reg 15).toNat = (if (s.reg y).toNat ≥ (s.reg x).toNat then 1 else 0) ∧
      (∀ k, k ≠ x → k ≠ 15 → t.reg k = s.reg k) ∧ t.pc = s.pc + 2 ∧ KeepsAllButRegsAndPc s t)

/-- R100, R102, R103: the shifts of VX by one bit, VF the bit shifted out; VY, whatever the field names, plays no part
(R57). X = 15 as R91, decision D1, the spec's own (log entry 5). -/
def Obligations.ShiftsMoveOneBitIntoVf : Prop :=
  ∀ (x y : Reg) (s : State),
    (∃ t, exec (.shr x y) s = .next t ∧
      (x ≠ 15 → (t.reg x).toNat = (s.reg x).toNat / 2) ∧ (t.reg 15).toNat = (s.reg x).toNat % 2 ∧
      (∀ k, k ≠ x → k ≠ 15 → t.reg k = s.reg k) ∧ t.pc = s.pc + 2 ∧ KeepsAllButRegsAndPc s t) ∧
    (∃ t, exec (.shl x y) s = .next t ∧
      (x ≠ 15 → (t.reg x).toNat = 2 * (s.reg x).toNat % 256) ∧ (t.reg 15).toNat = (s.reg x).toNat / 128 ∧
      (∀ k, k ≠ x → k ≠ 15 → t.reg k = s.reg k) ∧ t.pc = s.pc + 2 ∧ KeepsAllButRegsAndPc s t)

/-- R105: VX is NN AND the step's free byte (decision D7, log entry 3), so every bit that is 0 in NN is 0; the next draw is
another one. It holds for every value of the free byte. -/
def Obligations.RandomLoadMasksAFreeByte : Prop :=
  ∀ (x : Reg) (nn : Byte) (s : State), ∃ t, exec (.rnd x nn) s = .next t ∧
    (∀ b, (t.reg x).getLsbD b = (nn.getLsbD b && (Config.randomByte s.draws).getLsbD b)) ∧
    (∀ k, k ≠ x → t.reg k = s.reg k) ∧ t.pc = s.pc + 2 ∧ t.draws ≠ s.draws ∧ KeepsAllButRegsAndPc s t

/-! ### Index register and transfers (43_index_memory.md) -/

/-- R111: I is NNN, PC is 2 higher, and nothing else changes. -/
def Obligations.LoadIndexSetsI : Prop :=
  ∀ (nnn : Addr12) (s : State), ∃ t, exec (.ldI nnn) s = .next t ∧ t.i.toNat = nnn.toNat ∧ t.pc = s.pc + 2 ∧
    (∀ k, t.reg k = s.reg k) ∧ t.sp = s.sp ∧ t.stack = s.stack ∧ t.px = s.px ∧ t.status = s.status ∧
    ∀ a, t.readByte a = s.readByte a

/-- R112: I + VX modulo 2^16 (the wrap is decision D5, the spec's own; log entry 10); VF is not written. -/
def Obligations.AddIndexWrapsAt16Bits : Prop :=
  ∀ (x : Reg) (s : State), ∃ t, exec (.addI x) s = .next t ∧ t.i.toNat = (s.i.toNat + (s.reg x).toNat) % 65536 ∧
    t.pc = s.pc + 2 ∧ (∀ k, t.reg k = s.reg k) ∧ t.sp = s.sp ∧ t.stack = s.stack ∧ t.px = s.px ∧ t.status = s.status ∧
    ∀ a, t.readByte a = s.readByte a

/-- R113, where the three bytes exist: one digit in a byte; that the hundreds come first is decision D6, the spec's own (log
entry 11). Every byte but I to I + 2 is kept. -/
def Obligations.BcdStoresThreeDigits : Prop :=
  ∀ (x : Reg) (s : State), MemCanonical s → s.i.toNat + 2 ≤ 0xFFF → ∃ t, exec (.ldB x) s = .next t ∧
    (t.readByte s.i.toNat).toNat = (s.reg x).toNat / 100 ∧
    (t.readByte (s.i.toNat + 1)).toNat = (s.reg x).toNat / 10 % 10 ∧
    (t.readByte (s.i.toNat + 2)).toNat = (s.reg x).toNat % 10 ∧
    (∀ a, a < s.i.toNat ∨ s.i.toNat + 2 < a → t.readByte a = s.readByte a) ∧ t.pc = s.pc + 2 ∧ KeepsAllButMemAndPc s t

/-- R114, where the X + 1 bytes exist: V0 to VX go to I to I + X, every other byte is kept, I is kept. -/
def Obligations.StoreWritesV0ToVx : Prop :=
  ∀ (x : Reg) (s : State), MemCanonical s → s.i.toNat + x.val ≤ 0xFFF → ∃ t, exec (.store x) s = .next t ∧
    (∀ k : Reg, k.val ≤ x.val → t.readByte (s.i.toNat + k.val) = s.reg k) ∧
    (∀ a, a < s.i.toNat ∨ s.i.toNat + x.val < a → t.readByte a = s.readByte a) ∧ t.pc = s.pc + 2 ∧
    KeepsAllButMemAndPc s t

/-- R115, where the X + 1 bytes exist: they go to V0 to VX, every other register is kept, I and memory are kept. -/
def Obligations.LoadReadsV0ToVx : Prop :=
  ∀ (x : Reg) (s : State), s.i.toNat + x.val ≤ 0xFFF → ∃ t, exec (.load x) s = .next t ∧
    (∀ k : Reg, k.val ≤ x.val → t.reg k = s.readByte (s.i.toNat + k.val)) ∧
    (∀ k : Reg, x.val < k.val → t.reg k = s.reg k) ∧ t.pc = s.pc + 2 ∧ KeepsAllButRegsAndPc s t

/-- R37, R145 (decision D4, the spec's own; log entry 6): a transfer whose highest address is above 0xFFF latches
`AddressOutOfRange` with the lowest address out of range, and nothing of it is done. -/
def Obligations.TransferOutsideMemoryFaults : Prop :=
  ∀ (x y : Reg) (n : Nibble) (s : State),
    (0 < n.toNat → s.i.toNat + n.toNat - 1 > 0xFFF → exec (.drw x y n) s =
      .next (faultedWith s (.addressOutOfRange (max s.i.toNat 0x1000) (encode (.drw x y n)) s.pc))) ∧
    (s.i.toNat + 2 > 0xFFF → exec (.ldB x) s =
      .next (faultedWith s (.addressOutOfRange (max s.i.toNat 0x1000) (encode (.ldB x)) s.pc))) ∧
    (s.i.toNat + x.val > 0xFFF → exec (.store x) s =
      .next (faultedWith s (.addressOutOfRange (max s.i.toNat 0x1000) (encode (.store x)) s.pc))) ∧
    (s.i.toNat + x.val > 0xFFF → exec (.load x) s =
      .next (faultedWith s (.addressOutOfRange (max s.i.toNat 0x1000) (encode (.load x)) s.pc)))

/-- R110, R114, R115: what FX55 stored, an FX65 with the same X and I, the registers overwritten in between, brings back. -/
def Obligations.StoreThenLoadRestoresV0ToVx : Prop :=
  ∀ (x : Reg) (s t u : State), MemCanonical s → s.i.toNat + x.val ≤ 0xFFF → exec (.store x) s = .next t →
    u.mem = t.mem → u.i = t.i → ∃ v, exec (.load x) u = .next v ∧ ∀ k : Reg, k.val ≤ x.val → v.reg k = s.reg k

/-- R44 (decision D20, the spec's own; log entry 18): a store over the bytes behind it is what the next step fetches. -/
def Obligations.StoredBytesAreFetchedNext : Prop :=
  ∀ (x : Reg) (s : State), MemCanonical s → 1 ≤ x.val → s.i = s.pc + 2 → s.i.toNat + x.val ≤ 0xFFF →
    ∃ t w, exec (.store x) s = .next t ∧ fetchWord t = .ok w ∧
      w.toNat = 256 * (s.reg 0).toNat + (s.reg 1).toNat

/-! ### Display (44_display.md) -/

/-- R120: every pixel false, VF and all else kept; only the word 0x00E0 is this instruction (decision
D14, the spec's own). -/
def Obligations.ClearTurnsEveryPixelOff : Prop :=
  (∀ s : State, ∃ t, exec .cls s = .next t ∧ (∀ x y, pixel t.px x y = false) ∧ t.pc = s.pc + 2 ∧
    (∀ k, t.reg k = s.reg k) ∧ t.i = s.i ∧ t.sp = s.sp ∧ t.stack = s.stack ∧ t.status = s.status ∧
    ∀ a, t.readByte a = s.readByte a) ∧
  ∀ w : Word, decode w = .ok .cls ↔ w = 0x00E0

/-- R122, R123, R124: the compositor's loop is the pixelwise XOR with the wrapped sprite, and the collision bit says that
some covered pixel was set before. -/
def Obligations.CompositeIsPixelwiseXor : Prop :=
  ∀ (g : Grid) (x y : Byte) (rows : List Byte), rows.length ≤ 15 →
    (∀ px py, SpriteCovers x y rows px py → pixel (composite g x y rows).1 px py = !pixel g px py) ∧
    (∀ px py, ¬ SpriteCovers x y rows px py → pixel (composite g x y rows).1 px py = pixel g px py) ∧
    ((composite g x y rows).2 = true ↔ ∃ px py, SpriteCovers x y rows px py ∧ pixel g px py = true)

/-- R125's consequence, as the definition of a collision (R124) gives it: the same sprite at the same place twice restores the
grid, and the second call reports a collision exactly when some covered pixel was dark before the first. Where every covered
pixel was lit before, the second call turns them on again and reports none, although the spec's sentence, read as
90_conflicts.md C8 settles it, promises a collision (log entry 26). -/
def Obligations.CompositeTwiceRestoresTheGrid : Prop :=
  ∀ (g : Grid) (x y : Byte) (rows : List Byte), rows.length ≤ 15 →
    (composite (composite g x y rows).1 x y rows).1 = g ∧
    ((composite (composite g x y rows).1 x y rows).2 = true ↔
      ∃ px py, SpriteCovers x y rows px py ∧ pixel g px py = false)

/-- R126, where the N bytes exist: the bytes I to I + N - 1 are composited at (VX, VY) as read before the step, and VF is the
collision bit, 0x01 or 0x00 (decision D17, the spec's own; log entry 15). With N = 0 the grid is kept and VF is 0. -/
def Obligations.DrawCompositesAndSetsVf : Prop :=
  ∀ (x y : Reg) (n : Nibble) (s : State) (rows : List Byte), (n.toNat = 0 ∨ s.i.toNat + n.toNat - 1 ≤ 0xFFF) →
    rows.length = n.toNat → (∀ r : Nat, r < n.toNat → rows[r]? = some (s.readByte (s.i.toNat + r))) →
    ∃ t, exec (.drw x y n) s = .next t ∧ t.px = (composite s.px (s.reg x) (s.reg y) rows).1 ∧
      (t.reg 15).toNat = (if (composite s.px (s.reg x) (s.reg y) rows).2 = true then 1 else 0) ∧
      (n.toNat = 0 → t.px = s.px ∧ t.reg 15 = 0x00) ∧
      (∀ k, k ≠ 15 → t.reg k = s.reg k) ∧ t.pc = s.pc + 2 ∧ t.i = s.i ∧ t.sp = s.sp ∧ t.stack = s.stack ∧
      t.status = s.status ∧ ∀ a, t.readByte a = s.readByte a

/-! ### Stubs and placeholders (45_placeholders.md) -/

/-- R130 to R135: EX9E never skips, EXA1 always skips, FX07, FX15, FX18 and FX29 add 2 to PC; none changes anything else. The
stubs are decisions D8 and D9, the spec's own (log entry 12). -/
def Obligations.StubsOnlyMovePc : Prop :=
  ∀ (x : Reg) (s : State),
    (∃ t, exec (.skp x) s = .next t ∧ t.pc = s.pc + 2 ∧ KeepsAllButPc s t) ∧
    (∃ t, exec (.sknp x) s = .next t ∧ t.pc = s.pc + 4 ∧ KeepsAllButPc s t) ∧
    (∃ t, exec (.ldVxDt x) s = .next t ∧ t.pc = s.pc + 2 ∧ KeepsAllButPc s t) ∧
    (∃ t, exec (.ldDtVx x) s = .next t ∧ t.pc = s.pc + 2 ∧ KeepsAllButPc s t) ∧
    (∃ t, exec (.ldStVx x) s = .next t ∧ t.pc = s.pc + 2 ∧ KeepsAllButPc s t) ∧
    (∃ t, exec (.ldF x) s = .next t ∧ t.pc = s.pc + 2 ∧ KeepsAllButPc s t)

/-! ### Rules of the whole machine -/

/-- R11, R12: no instruction writes a register outside its row of the access table (`writesReg`). -/
def Obligations.RegistersWrittenAreTheTables : Prop :=
  ∀ (ins : Instr) (s t : State) (k : Reg), exec ins s = .next t → writesReg ins k = false → t.reg k = s.reg k

/-- R11: a register that an instruction's row of the access table names neither as read nor as written plays no part in it:
with another value there, the instruction answers the same and the value is still there. -/
def Obligations.UnnamedRegistersPlayNoPart : Prop :=
  ∀ (ins : Instr) (s : State) (k : Reg) (b : Byte), readsReg ins k = false → writesReg ins k = false →
    exec ins (s.setReg k b) = onNext (fun t => t.setReg k b) (exec ins s)

/-- R13: only ANNN and FX1E write I. -/
def Obligations.OnlyIndexInstructionsWriteI : Prop :=
  ∀ (ins : Instr) (s t : State), exec ins s = .next t → t.i ≠ s.i →
    (∃ nnn, ins = .ldI nnn) ∨ ∃ x, ins = .addI x

/-- R17: only 2NNN writes a stack slot, and that the slot SP; only 2NNN and 00EE change SP. -/
def Obligations.OnlyCallAndReturnTouchTheStack : Prop :=
  ∀ (ins : Instr) (s t : State), exec ins s = .next t →
    (∀ k : Fin 16, t.stack[k.val] ≠ s.stack[k.val] → (∃ nnn, ins = .call nnn) ∧ k.val = s.sp.val) ∧
    (t.sp ≠ s.sp → (∃ nnn, ins = .call nnn) ∨ ins = .ret)

/-- R19, R127: only 00E0 and DXYN change a pixel. -/
def Obligations.OnlyClearAndDrawChangeThePixels : Prop :=
  ∀ (ins : Instr) (s t : State), exec ins s = .next t → t.px ≠ s.px → ins = .cls ∨ ∃ x y n, ins = .drw x y n

/-- R38: only FX33 and FX55 write memory, and only the bytes I to I + 2 and I to I + X. -/
def Obligations.OnlyBcdAndStoreWriteMemory : Prop :=
  ∀ (ins : Instr) (s t : State) (a : Nat), exec ins s = .next t → t.readByte a ≠ s.readByte a →
    (∃ x, ins = .ldB x ∧ s.i.toNat ≤ a ∧ a ≤ s.i.toNat + 2) ∨
    (∃ x : Reg, ins = .store x ∧ s.i.toNat ≤ a ∧ a ≤ s.i.toNat + x.val)

/-- R15 by the digits of the word at PC: PC after a completed step; after a step that faults it is unchanged. EX9E and EXA1
are decision D8, the spec's own. -/
def Obligations.PcAfterAStep : Prop :=
  ∀ (s t : State), s.status = .running → step s = .next t →
    let w := wordAtPc s
    let vx := s.reg (Fin.ofNat 16 (w / 0x100))
    let vy := s.reg (Fin.ofNat 16 (w / 0x10))
    let c := w / 0x1000
    (t.status ≠ .running → t.pc = s.pc) ∧
    (t.status = .running →
      if w = 0x00EE then ∃ k : Fin 16, k.val + 1 = s.sp.val ∧ t.pc = s.stack[k.val] + 2
      else if c = 0x1 ∨ c = 0x2 then t.pc.toNat = w % 0x1000
      else if c = 0xB then t.pc.toNat = (s.reg 0).toNat + w % 0x1000
      else if (c = 0x3 ∧ vx.toNat = w % 0x100) ∨ (c = 0x4 ∧ vx.toNat ≠ w % 0x100) ∨ (c = 0x5 ∧ vx = vy) ∨
          (c = 0x9 ∧ vx ≠ vy) ∨ (c = 0xE ∧ w % 0x100 = 0xA1) then t.pc = s.pc + 4
      else t.pc = s.pc + 2)

/-- R181 (decision D24, the spec's own; 90_conflicts.md C9; log entry 20): a run has ended normally exactly at a jump to
itself, 1NNN with NNN = PC or BNNN with V0 + NNN = PC. -/
def Obligations.RunEndsExactlyAtASelfJump : Prop :=
  ∀ s : State, EndedNormally s ↔ s.status = .running ∧ s.pc.toNat ≤ 0xFFE ∧
    ((wordAtPc s / 0x1000 = 0x1 ∧ wordAtPc s % 0x1000 = s.pc.toNat) ∨
     (wordAtPc s / 0x1000 = 0xB ∧ (s.reg 0).toNat + wordAtPc s % 0x1000 = s.pc.toNat))
end

