-- ==== Sys2Proof/Laws/State.lean ====
section
/-!
SUPPORT. One lemma per field per update of the state, so that no proof unfolds a record update.
-/

namespace Sys2Proof.Machine

@[simp] theorem setReg_mem (s : State) (k : Reg) (b : Byte) : (s.setReg k b).mem = s.mem := rfl
@[simp] theorem setReg_v (s : State) (k : Reg) (b : Byte) : (s.setReg k b).v = s.v.set k.val b := rfl
@[simp] theorem setReg_i (s : State) (k : Reg) (b : Byte) : (s.setReg k b).i = s.i := rfl
@[simp] theorem setReg_pc (s : State) (k : Reg) (b : Byte) : (s.setReg k b).pc = s.pc := rfl
@[simp] theorem setReg_sp (s : State) (k : Reg) (b : Byte) : (s.setReg k b).sp = s.sp := rfl
@[simp] theorem setReg_stack (s : State) (k : Reg) (b : Byte) : (s.setReg k b).stack = s.stack := rfl
@[simp] theorem setReg_px (s : State) (k : Reg) (b : Byte) : (s.setReg k b).px = s.px := rfl
@[simp] theorem setReg_status (s : State) (k : Reg) (b : Byte) : (s.setReg k b).status = s.status := rfl
@[simp] theorem setReg_draws (s : State) (k : Reg) (b : Byte) : (s.setReg k b).draws = s.draws := rfl

@[simp] theorem setFlag_mem (s : State) (f : Bool) : (s.setFlag f).mem = s.mem := rfl
@[simp] theorem setFlag_v (s : State) (f : Bool) : (s.setFlag f).v = s.v.set 15 (flagByte f) := rfl
@[simp] theorem setFlag_i (s : State) (f : Bool) : (s.setFlag f).i = s.i := rfl
@[simp] theorem setFlag_pc (s : State) (f : Bool) : (s.setFlag f).pc = s.pc := rfl
@[simp] theorem setFlag_sp (s : State) (f : Bool) : (s.setFlag f).sp = s.sp := rfl
@[simp] theorem setFlag_stack (s : State) (f : Bool) : (s.setFlag f).stack = s.stack := rfl
@[simp] theorem setFlag_px (s : State) (f : Bool) : (s.setFlag f).px = s.px := rfl
@[simp] theorem setFlag_status (s : State) (f : Bool) : (s.setFlag f).status = s.status := rfl
@[simp] theorem setFlag_draws (s : State) (f : Bool) : (s.setFlag f).draws = s.draws := rfl

@[simp] theorem setResultFlag_mem (s : State) (x : Reg) (r : Byte) (f : Bool) : (s.setResultFlag x r f).mem = s.mem := rfl
@[simp] theorem setResultFlag_v (s : State) (x : Reg) (r : Byte) (f : Bool) : (s.setResultFlag x r f).v = (s.v.set x.val r).set 15 (flagByte f) := rfl
@[simp] theorem setResultFlag_i (s : State) (x : Reg) (r : Byte) (f : Bool) : (s.setResultFlag x r f).i = s.i := rfl
@[simp] theorem setResultFlag_pc (s : State) (x : Reg) (r : Byte) (f : Bool) : (s.setResultFlag x r f).pc = s.pc := rfl
@[simp] theorem setResultFlag_sp (s : State) (x : Reg) (r : Byte) (f : Bool) : (s.setResultFlag x r f).sp = s.sp := rfl
@[simp] theorem setResultFlag_stack (s : State) (x : Reg) (r : Byte) (f : Bool) : (s.setResultFlag x r f).stack = s.stack := rfl
@[simp] theorem setResultFlag_px (s : State) (x : Reg) (r : Byte) (f : Bool) : (s.setResultFlag x r f).px = s.px := rfl
@[simp] theorem setResultFlag_status (s : State) (x : Reg) (r : Byte) (f : Bool) : (s.setResultFlag x r f).status = s.status := rfl
@[simp] theorem setResultFlag_draws (s : State) (x : Reg) (r : Byte) (f : Bool) : (s.setResultFlag x r f).draws = s.draws := rfl

@[simp] theorem loadRegsTo_mem (s : State) (x : Reg) (a : Nat) : (s.loadRegsTo x a).mem = s.mem := rfl
@[simp] theorem loadRegsTo_i (s : State) (x : Reg) (a : Nat) : (s.loadRegsTo x a).i = s.i := rfl
@[simp] theorem loadRegsTo_pc (s : State) (x : Reg) (a : Nat) : (s.loadRegsTo x a).pc = s.pc := rfl
@[simp] theorem loadRegsTo_sp (s : State) (x : Reg) (a : Nat) : (s.loadRegsTo x a).sp = s.sp := rfl
@[simp] theorem loadRegsTo_stack (s : State) (x : Reg) (a : Nat) : (s.loadRegsTo x a).stack = s.stack := rfl
@[simp] theorem loadRegsTo_px (s : State) (x : Reg) (a : Nat) : (s.loadRegsTo x a).px = s.px := rfl
@[simp] theorem loadRegsTo_status (s : State) (x : Reg) (a : Nat) : (s.loadRegsTo x a).status = s.status := rfl
@[simp] theorem loadRegsTo_draws (s : State) (x : Reg) (a : Nat) : (s.loadRegsTo x a).draws = s.draws := rfl

@[simp] theorem advance_mem (s : State) (n : Word) : (s.advance n).mem = s.mem := rfl
@[simp] theorem advance_v (s : State) (n : Word) : (s.advance n).v = s.v := rfl
@[simp] theorem advance_i (s : State) (n : Word) : (s.advance n).i = s.i := rfl
@[simp] theorem advance_pc (s : State) (n : Word) : (s.advance n).pc = s.pc + n := rfl
@[simp] theorem advance_sp (s : State) (n : Word) : (s.advance n).sp = s.sp := rfl
@[simp] theorem advance_stack (s : State) (n : Word) : (s.advance n).stack = s.stack := rfl
@[simp] theorem advance_px (s : State) (n : Word) : (s.advance n).px = s.px := rfl
@[simp] theorem advance_status (s : State) (n : Word) : (s.advance n).status = s.status := rfl
@[simp] theorem advance_draws (s : State) (n : Word) : (s.advance n).draws = s.draws := rfl

@[simp] theorem nextInstr_mem (s : State) : s.nextInstr.mem = s.mem := rfl
@[simp] theorem nextInstr_v (s : State) : s.nextInstr.v = s.v := rfl
@[simp] theorem nextInstr_i (s : State) : s.nextInstr.i = s.i := rfl
@[simp] theorem nextInstr_pc (s : State) : s.nextInstr.pc = s.pc + 2 := rfl
@[simp] theorem nextInstr_sp (s : State) : s.nextInstr.sp = s.sp := rfl
@[simp] theorem nextInstr_stack (s : State) : s.nextInstr.stack = s.stack := rfl
@[simp] theorem nextInstr_px (s : State) : s.nextInstr.px = s.px := rfl
@[simp] theorem nextInstr_status (s : State) : s.nextInstr.status = s.status := rfl
@[simp] theorem nextInstr_draws (s : State) : s.nextInstr.draws = s.draws := rfl

@[simp] theorem skipIf_mem (s : State) (c : Bool) : (s.skipIf c).mem = s.mem := rfl
@[simp] theorem skipIf_v (s : State) (c : Bool) : (s.skipIf c).v = s.v := rfl
@[simp] theorem skipIf_i (s : State) (c : Bool) : (s.skipIf c).i = s.i := rfl
@[simp] theorem skipIf_pc (s : State) (c : Bool) : (s.skipIf c).pc = s.pc + (if c then 4 else 2) := rfl
@[simp] theorem skipIf_sp (s : State) (c : Bool) : (s.skipIf c).sp = s.sp := rfl
@[simp] theorem skipIf_stack (s : State) (c : Bool) : (s.skipIf c).stack = s.stack := rfl
@[simp] theorem skipIf_px (s : State) (c : Bool) : (s.skipIf c).px = s.px := rfl
@[simp] theorem skipIf_status (s : State) (c : Bool) : (s.skipIf c).status = s.status := rfl
@[simp] theorem skipIf_draws (s : State) (c : Bool) : (s.skipIf c).draws = s.draws := rfl

@[simp] theorem jumpTo_mem (s : State) (a : Word) : (s.jumpTo a).mem = s.mem := rfl
@[simp] theorem jumpTo_v (s : State) (a : Word) : (s.jumpTo a).v = s.v := rfl
@[simp] theorem jumpTo_i (s : State) (a : Word) : (s.jumpTo a).i = s.i := rfl
@[simp] theorem jumpTo_pc (s : State) (a : Word) : (s.jumpTo a).pc = a := rfl
@[simp] theorem jumpTo_sp (s : State) (a : Word) : (s.jumpTo a).sp = s.sp := rfl
@[simp] theorem jumpTo_stack (s : State) (a : Word) : (s.jumpTo a).stack = s.stack := rfl
@[simp] theorem jumpTo_px (s : State) (a : Word) : (s.jumpTo a).px = s.px := rfl
@[simp] theorem jumpTo_status (s : State) (a : Word) : (s.jumpTo a).status = s.status := rfl
@[simp] theorem jumpTo_draws (s : State) (a : Word) : (s.jumpTo a).draws = s.draws := rfl

@[simp] theorem raise_mem (s : State) (f : Fault) : (raise s f).mem = s.mem := rfl
@[simp] theorem raise_v (s : State) (f : Fault) : (raise s f).v = s.v := rfl
@[simp] theorem raise_i (s : State) (f : Fault) : (raise s f).i = s.i := rfl
@[simp] theorem raise_pc (s : State) (f : Fault) : (raise s f).pc = s.pc := rfl
@[simp] theorem raise_sp (s : State) (f : Fault) : (raise s f).sp = s.sp := rfl
@[simp] theorem raise_stack (s : State) (f : Fault) : (raise s f).stack = s.stack := rfl
@[simp] theorem raise_px (s : State) (f : Fault) : (raise s f).px = s.px := rfl
@[simp] theorem raise_status (s : State) (f : Fault) : (raise s f).status = .faulted f := rfl
@[simp] theorem raise_draws (s : State) (f : Fault) : (raise s f).draws = s.draws := rfl

/-! What a read sees after an update. -/

theorem reg_def (s : State) (k : Reg) : s.reg k = s.v[k.val] := rfl

theorem readByte_def (s : State) (a : Nat) : s.readByte a = s.mem.read a := rfl

/-- A register write is seen by a read of that register and by no other (R11). -/
theorem reg_setReg (s : State) (k j : Reg) (b : Byte) : (s.setReg k b).reg j = if j = k then b else s.reg j := by
  by_cases h : j = k
  · subst h; simp [State.reg]
  · have : k.val ≠ j.val := fun e => h (Fin.ext e.symm)
    simp [State.reg, h, Vector.getElem_set_ne _ _ this]

@[simp] theorem reg_setReg_same (s : State) (k : Reg) (b : Byte) : (s.setReg k b).reg k = b := by simp [reg_setReg]

theorem reg_setReg_ne (s : State) {k j : Reg} (b : Byte) (h : j ≠ k) : (s.setReg k b).reg j = s.reg j := by
  simp [reg_setReg, h]

/-- The flag is what VF holds after the two writes of R91. -/
@[simp] theorem reg_setResultFlag_flag (s : State) (x : Reg) (r : Byte) (f : Bool) :
    (s.setResultFlag x r f).reg 15 = flagByte f := reg_setReg_same _ _ _

/-- Any other destination holds the result after the two writes of R91. -/
theorem reg_setResultFlag_dest (s : State) {x : Reg} (r : Byte) (f : Bool) (h : x ≠ 15) :
    (s.setResultFlag x r f).reg x = r :=
  (reg_setReg_ne _ _ (show x ≠ Config.flagReg from h)).trans (reg_setReg_same _ _ _)

/-- Every register but the destination and VF is kept by the two writes of R91. -/
theorem reg_setResultFlag_ne (s : State) {x k : Reg} (r : Byte) (f : Bool) (hx : k ≠ x) (hf : k ≠ 15) :
    (s.setResultFlag x r f).reg k = s.reg k :=
  (reg_setReg_ne _ _ (show k ≠ Config.flagReg from hf)).trans (reg_setReg_ne _ _ hx)

/-- After the transfer of FX65, V0 to VX hold the bytes and the rest is kept (R115). -/
theorem reg_loadRegsTo (s : State) (x : Reg) (a : Nat) (k : Reg) :
    (s.loadRegsTo x a).reg k = if k.val ≤ x.val then s.readByte (a + k.val) else s.reg k := by
  simp [State.reg, State.loadRegsTo]

@[simp] theorem advance_reg (s : State) (n : Word) (k : Reg) : (s.advance n).reg k = s.reg k := rfl
@[simp] theorem nextInstr_reg (s : State) (k : Reg) : s.nextInstr.reg k = s.reg k := rfl
@[simp] theorem skipIf_reg (s : State) (c : Bool) (k : Reg) : (s.skipIf c).reg k = s.reg k := rfl
@[simp] theorem jumpTo_reg (s : State) (a : Word) (k : Reg) : (s.jumpTo a).reg k = s.reg k := rfl
@[simp] theorem raise_reg (s : State) (f : Fault) (k : Reg) : (raise s f).reg k = s.reg k := rfl
@[simp] theorem setReg_readByte (s : State) (k : Reg) (b : Byte) (a' : Nat) : (s.setReg k b).readByte a' = s.readByte a' := rfl
@[simp] theorem setFlag_readByte (s : State) (f : Bool) (a' : Nat) : (s.setFlag f).readByte a' = s.readByte a' := rfl
@[simp] theorem setResultFlag_readByte (s : State) (x : Reg) (r : Byte) (f : Bool) (a' : Nat) : (s.setResultFlag x r f).readByte a' = s.readByte a' := rfl
@[simp] theorem loadRegsTo_readByte (s : State) (x : Reg) (a : Nat) (a' : Nat) : (s.loadRegsTo x a).readByte a' = s.readByte a' := rfl
@[simp] theorem advance_readByte (s : State) (n : Word) (a' : Nat) : (s.advance n).readByte a' = s.readByte a' := rfl
@[simp] theorem nextInstr_readByte (s : State) (a' : Nat) : s.nextInstr.readByte a' = s.readByte a' := rfl
@[simp] theorem skipIf_readByte (s : State) (c : Bool) (a' : Nat) : (s.skipIf c).readByte a' = s.readByte a' := rfl
@[simp] theorem jumpTo_readByte (s : State) (a : Word) (a' : Nat) : (s.jumpTo a).readByte a' = s.readByte a' := rfl
@[simp] theorem raise_readByte (s : State) (f : Fault) (a' : Nat) : (raise s f).readByte a' = s.readByte a' := rfl

@[simp] theorem holdFaulted_eq (s : State) : holdFaulted s = s := rfl

@[simp] theorem reset_mem : State.reset.mem = [] := rfl
@[simp] theorem reset_pc : State.reset.pc = 0x200 := rfl
@[simp] theorem reset_status : State.reset.status = .running := rfl

end Sys2Proof.Machine
end

