-- ==== Sys2Proof/Laws/Compositor.lean ====
section
/-!
SUPPORT. The pixel operations and one turn of the compositor's loop.
-/

namespace Sys2Proof.Machine

/-- A pixel write is seen at that pixel and nowhere else. -/
theorem pixel_setPixel (g : Grid) (x x' : Fin 64) (y y' : Fin 32) (b : Bool) :
    pixel (setPixel g x y b) x' y' = if x' = x ∧ y' = y then b else pixel g x' y' := by
  simp only [pixel, setPixel, Vector.getElem_set, Fin.ext_iff]
  by_cases hy : y.val = y'.val
  · by_cases hx : x.val = x'.val
    · simp [hx, hy]
    · simp [hx, Ne.symm hx, hy]
  · simp [hy, Ne.symm hy]

/-- Two grids with the same pixels are one. -/
theorem grid_ext {g g' : Grid} (h : ∀ x y, pixel g x y = pixel g' x y) : g = g' := by
  apply Vector.ext
  intro y hy
  apply Vector.ext
  intro x hx
  exact h ⟨x, hx⟩ ⟨y, hy⟩

/-- A cleared grid has every pixel false (R120). -/
@[simp] theorem pixel_clearGrid (x : Fin 64) (y : Fin 32) : pixel clearGrid x y = false := by
  simp [pixel, clearGrid]

/-- A clear sprite bit leaves the loop's state alone (R123). -/
theorem compositeBit_clear {x y row : Byte} {r c : Nat} (acc : Grid × Bool) (h : spriteBit row c = false) :
    compositeBit x y row r acc c = acc := by simp [compositeBit, h]

/-- A set sprite bit toggles its pixel, no other (R123). -/
theorem pixel_compositeBit_set {x y row : Byte} {r c : Nat} (acc : Grid × Bool) (h : spriteBit row c = true)
    (px : Fin 64) (py : Fin 32) :
    pixel (compositeBit x y row r acc c).1 px py =
      if px = pixelCol x c ∧ py = pixelRow y r then !pixel acc.1 px py else pixel acc.1 px py := by
  simp only [compositeBit, h, if_true, pixel_setPixel]
  split
  · rename_i hp; rw [hp.1, hp.2]
  · rfl

/-- A set sprite bit adds its pixel, as it was, to the collision bit (R124). -/
theorem collision_compositeBit_set {x y row : Byte} {r c : Nat} (acc : Grid × Bool) (h : spriteBit row c = true) :
    (compositeBit x y row r acc c).2 = (acc.2 || pixel acc.1 (pixelCol x c) (pixelRow y r)) := by
  simp [compositeBit, h]

/-- With no rows nothing is drawn and nothing collides (R124). -/
@[simp] theorem composite_nil (g : Grid) (x y : Byte) : composite g x y [] = (g, false) := rfl

end Sys2Proof.Machine
end

