-- ==== Sys2Proof/Laws/Decode.lean ====
section
/-!
SUPPORT. The fields of an encoded word, and the one way the decoder refuses.
-/

namespace Sys2Proof

/-- A concatenation as a number (00_scope.md R8). -/
theorem append_toNat {m n : Nat} (a : BitVec m) (b : BitVec n) : (a ++ b).toNat = 2 ^ n * a.toNat + b.toNat := by
  rw [BitVec.toNat_append, Nat.shiftLeft_eq, Nat.mul_comm, ← Nat.two_pow_add_eq_or_of_lt b.isLt]

/-- The number of a word of format A (R52). -/
theorem encodeA_toNat (c : Nibble) (nnn : Addr12) : (encodeA c nnn).toNat = 0x1000 * c.toNat + nnn.toNat :=
  append_toNat c nnn

/-- The number of a word of format XI or XK (R52). -/
theorem encodeXI_toNat (c : Nibble) (x : Reg) (nn : Byte) :
    (encodeXI c x nn).toNat = 0x1000 * c.toNat + (0x100 * x.val + nn.toNat) := by
  rw [← show ((BitVec.ofFin x : Nibble) ++ nn).toNat = 0x100 * x.val + nn.toNat from append_toNat _ _]
  exact append_toNat c _

/-- The number of a word of format XY or XYN (R52). -/
theorem encodeXYN_toNat (c : Nibble) (x y : Reg) (n : Nibble) :
    (encodeXYN c x y n).toNat = 0x1000 * c.toNat + (0x100 * x.val + (0x10 * y.val + n.toNat)) := by
  rw [← show ((BitVec.ofFin y : Nibble) ++ n).toNat = 0x10 * y.val + n.toNat from append_toNat _ _]
  exact encodeXI_toNat c x _

/-- A field as a number: bits `lo` to `lo + n - 1` of the word (R7, R51). -/
theorem extract_toNat (w : Word) (lo n : Nat) : (w.extractLsb' lo n).toNat = w.toNat / 2 ^ lo % 2 ^ n := by
  simp [BitVec.extractLsb'_toNat, Nat.shiftRight_eq_div_pow]

theorem fieldClass_toNat (w : Word) : (fieldClass w).toNat = w.toNat / 0x1000 := by
  have := extract_toNat w 12 4
  have hw := w.isLt
  simp only [fieldClass]
  omega

theorem fieldX_val (w : Word) : (fieldX w).val = w.toNat / 0x100 % 0x10 := extract_toNat w 8 4

theorem fieldY_val (w : Word) : (fieldY w).val = w.toNat / 0x10 % 0x10 := extract_toNat w 4 4

theorem fieldN_toNat (w : Word) : (fieldN w).toNat = w.toNat % 0x10 := by
  have := extract_toNat w 0 4
  simp only [fieldN]
  omega

theorem fieldNN_toNat (w : Word) : (fieldNN w).toNat = w.toNat % 0x100 := by
  have := extract_toNat w 0 8
  simp only [fieldNN]
  omega

theorem fieldNNN_toNat (w : Word) : (fieldNNN w).toNat = w.toNat % 0x1000 := by
  have := extract_toNat w 0 12
  simp only [fieldNNN]
  omega

/-- The fields of a word of format A (R52). -/
theorem fields_encodeA (c : Nibble) (nnn : Addr12) : fieldClass (encodeA c nnn) = c ∧ fieldNNN (encodeA c nnn) = nnn := by
  have hn := nnn.isLt
  constructor <;> apply BitVec.eq_of_toNat_eq
  · rw [fieldClass_toNat, encodeA_toNat]; omega
  · rw [fieldNNN_toNat, encodeA_toNat]; omega

/-- The fields of a word of format XI or XK (R52). -/
theorem fields_encodeXI (c : Nibble) (x : Reg) (nn : Byte) :
    fieldClass (encodeXI c x nn) = c ∧ fieldX (encodeXI c x nn) = x ∧ fieldNN (encodeXI c x nn) = nn := by
  have hn := nn.isLt
  refine ⟨BitVec.eq_of_toNat_eq ?_, Fin.ext ?_, BitVec.eq_of_toNat_eq ?_⟩
  · rw [fieldClass_toNat, encodeXI_toNat]; omega
  · rw [fieldX_val, encodeXI_toNat]; omega
  · rw [fieldNN_toNat, encodeXI_toNat]; omega

/-- The fields of a word of format XY or XYN (R52). -/
theorem fields_encodeXYN (c : Nibble) (x y : Reg) (n : Nibble) :
    fieldClass (encodeXYN c x y n) = c ∧ fieldX (encodeXYN c x y n) = x ∧ fieldY (encodeXYN c x y n) = y ∧
      fieldN (encodeXYN c x y n) = n := by
  have hn := n.isLt
  refine ⟨BitVec.eq_of_toNat_eq ?_, Fin.ext ?_, Fin.ext ?_, BitVec.eq_of_toNat_eq ?_⟩
  · rw [fieldClass_toNat, encodeXYN_toNat]; omega
  · rw [fieldX_val, encodeXYN_toNat]; omega
  · rw [fieldY_val, encodeXYN_toNat]; omega
  · rw [fieldN_toNat, encodeXYN_toNat]; omega

/-- The decoder refuses a word by that word and in no other way (R59). -/
theorem decode_error {w : Word} {e : DecodeError} (h : decode w = .error e) : e = .undefinedOpcode w := by
  unfold decode decodeClass0 decodeClass5 decodeClass8 decodeClass9 decodeClassE decodeClassF at h
  split at h <;> (try (split at h)) <;> cases h <;> rfl

end Sys2Proof
end

