-- ==== Sys2Proof/Laws/Memory.lean ====
section
/-!
SUPPORT. The laws of memory: what a read sees after a write, and that every memory operation keeps the canonical form.
-/

namespace Sys2Proof.Machine

@[simp] theorem Memory.read_nil (a : Nat) : Memory.read [] a = 0 := rfl

theorem Memory.read_cons (k : Nat) (b : Byte) (m : Memory) (a : Nat) :
    Memory.read ((k, b) :: m) a = if k = a then b else Memory.read m a := rfl

/-- A weaker lower bound holds too. -/
theorem Memory.wfFrom_mono {lo lo' : Nat} (h : lo' ≤ lo) : ∀ {m : Memory}, Memory.wfFrom lo m = true → Memory.wfFrom lo' m = true
  | [], _ => rfl
  | (a, b) :: m, hm => by
    simp only [Memory.wfFrom, Bool.and_eq_true, decide_eq_true_eq] at hm ⊢
    exact ⟨⟨⟨by omega, hm.1.1.2⟩, hm.1.2⟩, hm.2⟩

/-- Below the bound nothing is listed. -/
theorem Memory.read_of_lt : ∀ {m : Memory} {lo a : Nat}, Memory.wfFrom lo m = true → a < lo → m.read a = 0
  | [], _, _, _, _ => rfl
  | (k, b) :: m, lo, a, hm, h => by
    simp only [Memory.wfFrom, Bool.and_eq_true, decide_eq_true_eq] at hm
    have hne : k ≠ a := by omega
    rw [Memory.read_cons, if_neg hne]
    exact Memory.read_of_lt hm.2 (by omega)

/-- A write leaves every other address alone, in any list. -/
theorem Memory.read_write_ne {a a' : Nat} (b : Byte) (h : a' ≠ a) : ∀ m : Memory, (m.write a b).read a' = m.read a'
  | [] => by
    simp only [Memory.write]
    split
    · rfl
    · rw [Memory.read_cons, if_neg (Ne.symm h)]
  | (k, c) :: m => by
    simp only [Memory.write]
    split
    · split
      · rfl
      · rw [Memory.read_cons, if_neg (Ne.symm h)]
    · split
      · rename_i hak
        have hk : k ≠ a' := fun e => h (by omega)
        split
        · rw [Memory.read_cons k, if_neg hk]
        · rw [Memory.read_cons a, if_neg (Ne.symm h), Memory.read_cons k, if_neg hk]
      · rw [Memory.read_cons, Memory.read_cons, Memory.read_write_ne b h m]

/-- In canonical memory a read of the written address gives the byte written. -/
theorem Memory.read_write_same (a : Nat) (b : Byte) :
    ∀ {m : Memory} {lo : Nat}, Memory.wfFrom lo m = true → (m.write a b).read a = b
  | [], _, _ => by
    simp only [Memory.write]
    split
    · rename_i hb; rw [hb]; rfl
    · rw [Memory.read_cons, if_pos rfl]
  | (k, c) :: m, lo, hm => by
    have hw := hm
    simp only [Memory.wfFrom, Bool.and_eq_true, decide_eq_true_eq] at hm
    simp only [Memory.write]
    split
    · split
      · rename_i hlt hb
        have hlow : Memory.wfFrom k ((k, c) :: m) = true := by
          simp only [Memory.wfFrom, Bool.and_eq_true, decide_eq_true_eq]
          exact ⟨⟨⟨Nat.le_refl k, hm.1.1.2⟩, hm.1.2⟩, hm.2⟩
        rw [hb]
        exact Memory.read_of_lt hlow hlt
      · rw [Memory.read_cons, if_pos rfl]
    · split
      · rename_i hak
        split
        · rename_i hb
          rw [hb]
          exact Memory.read_of_lt hm.2 (by omega)
        · rw [Memory.read_cons, if_pos rfl]
      · rename_i hlt hne
        rw [Memory.read_cons, if_neg (Ne.symm hne)]
        exact Memory.read_write_same a b hm.2

/-- A write of an existing address keeps the canonical form. -/
theorem Memory.wfFrom_write {a : Nat} (b : Byte) (ha : a < Config.memSize) :
    ∀ {m : Memory} {lo : Nat}, lo ≤ a → Memory.wfFrom lo m = true → Memory.wfFrom lo (m.write a b) = true
  | [], lo, hlo, _ => by
    simp only [Memory.write]
    split
    · rfl
    · rename_i hb
      simp [Memory.wfFrom, hlo, ha, hb]
  | (k, c) :: m, lo, hlo, hm => by
    have hw := hm
    simp only [Memory.wfFrom, Bool.and_eq_true, decide_eq_true_eq] at hm
    obtain ⟨⟨⟨h1, h2⟩, h3⟩, h4⟩ := hm
    simp only [Memory.write]
    split
    · rename_i hak
      split
      · exact hw
      · rename_i hb
        have : a + 1 ≤ k := hak
        simp [Memory.wfFrom, hlo, ha, hb, this, h2, h4, by simpa using h3]
    · split
      · rename_i hak
        subst hak
        split
        · exact Memory.wfFrom_mono (by omega) h4
        · rename_i hb
          simp [Memory.wfFrom, hlo, ha, hb, h4]
      · have := Memory.wfFrom_write b ha (lo := k + 1) (by omega) h4
        simp [Memory.wfFrom, h1, h2, this, by simpa using h3]

/-- Canonical memory stays canonical under a byte write. -/
theorem Memory.wf_write {m : Memory} {a : Nat} (b : Byte) (ha : a < Config.memSize) (h : m.wf = true) : (m.write a b).wf = true :=
  Memory.wfFrom_write b ha (Nat.zero_le a) h

/-- Canonical memory stays canonical under a transfer that fits. -/
theorem Memory.wf_writeBytes : ∀ {bs : List Byte} {m : Memory} {a : Nat},
    a + bs.length ≤ Config.memSize → m.wf = true → (m.writeBytes a bs).wf = true
  | [], _, _, _, h => h
  | b :: bs, m, a, hl, h => by
    simp only [List.length_cons] at hl
    exact Memory.wf_writeBytes (bs := bs) (by omega) (Memory.wf_write b (by omega) h)

/-- A transfer leaves every byte outside it alone, in any list. -/
theorem Memory.read_writeBytes_out : ∀ (bs : List Byte) (m : Memory) (a a' : Nat),
    a' < a ∨ a + bs.length ≤ a' → (m.writeBytes a bs).read a' = m.read a'
  | [], _, _, _, _ => rfl
  | b :: bs, m, a, a', h => by
    simp only [List.length_cons] at h
    rw [Memory.writeBytes, Memory.read_writeBytes_out bs _ _ _ (by omega), Memory.read_write_ne b (by omega)]

/-- In canonical memory, element `k` of a transfer that fits is read back at `a + k`. -/
theorem Memory.read_writeBytes_in : ∀ (bs : List Byte) (m : Memory) (a k : Nat) (b : Byte),
    m.wf = true → a + bs.length ≤ Config.memSize → bs[k]? = some b → (m.writeBytes a bs).read (a + k) = b
  | [], _, _, _, _, _, _, h => by simp at h
  | c :: bs, m, a, 0, b, hm, hl, h => by
    simp only [List.length_cons] at hl
    obtain rfl : c = b := by simpa using h
    rw [Memory.writeBytes, Memory.read_writeBytes_out bs _ _ _ (by omega)]
    exact Memory.read_write_same a c hm
  | c :: bs, m, a, k + 1, b, hm, hl, h => by
    simp only [List.length_cons] at hl
    have := Memory.read_writeBytes_in bs (m.write a c) (a + 1) k b (Memory.wf_write c (by omega) hm) (by omega) (by simpa using h)
    rwa [Memory.writeBytes, show a + (k + 1) = a + 1 + k by omega]

@[simp] theorem Memory.readBytes_length (m : Memory) (a n : Nat) : (m.readBytes a n).length = n := by
  simp [Memory.readBytes]

/-- Element `k` of a block read is the byte at `a + k` (R34). -/
theorem Memory.readBytes_getElem? (m : Memory) (a n k : Nat) :
    (m.readBytes a n)[k]? = if k < n then some (m.read (a + k)) else none := by
  simp only [Memory.readBytes, List.getElem?_map]
  split
  · rename_i h; simp [h]
  · rename_i h; simp [h]

/-- The memory of an image that fits is canonical. -/
theorem imageAt_wfFrom : ∀ (bs : List Byte) (a : Nat), a + bs.length ≤ Config.memSize → Memory.wfFrom a (imageAt a bs) = true
  | [], _, _ => rfl
  | b :: bs, a, h => by
    simp only [List.length_cons] at h
    have ih := imageAt_wfFrom bs (a + 1) (by omega)
    simp only [imageAt]
    split
    · exact Memory.wfFrom_mono (by omega) ih
    · rename_i hb
      simp [Memory.wfFrom, ih, hb, show a < Config.memSize by omega]

/-- Memory at reset is canonical. -/
theorem reset_mem_wf : State.reset.mem.wf = true := rfl

@[simp] theorem bcdDigits_length (a : Byte) : (bcdDigits a).length = 3 := rfl

@[simp] theorem regsTo_length (s : State) (x : Reg) : (s.regsTo x).length = x.val + 1 := by
  simp [State.regsTo]

/-- Element `k` of the stored block is VK (R114). -/
theorem regsTo_getElem? (s : State) (x k : Reg) (h : k.val ≤ x.val) : (s.regsTo x)[k.val]? = some (s.reg k) := by
  simp [State.regsTo, State.reg, Nat.lt_succ_of_le h]

end Sys2Proof.Machine
end

