-- ==== Sys2Proof/Laws/Ops.lean ====
section
/-!
SUPPORT. For each shared operation, one lemma that says everything it can do.
-/

namespace Sys2Proof.Machine

@[simp] theorem transferFits_eq (s : State) (n : Nat) : s.transferFits n = true ↔ n = 0 ∨ s.i.toNat + n ≤ 4096 :=
  decide_eq_true_iff (p := n = 0 ∨ s.i.toNat + n ≤ Config.memSize)

/-- The encoder's word in the record of a transfer that does not fit (R145). -/
theorem transferFault_eq (s : State) (ins : Instr) :
    s.transferFault ins = .addressOutOfRange (max s.i.toNat 4096) (encode ins) s.pc := rfl

/-- A transfer that fits is done (R37). -/
theorem withTransfer_fits {s : State} {n : Nat} (ins : Instr) (done : State) (h : n = 0 ∨ s.i.toNat + n ≤ 4096) :
    s.withTransfer ins n done = .next done := by
  rw [State.withTransfer, if_pos ((transferFits_eq s n).2 h)]

/-- A transfer that does not fit takes the fault and does nothing else (R37, R148). -/
theorem withTransfer_faults {s : State} {n : Nat} (ins : Instr) (done : State) (h : ¬ (n = 0 ∨ s.i.toNat + n ≤ 4096)) :
    s.withTransfer ins n done = .next (raise s (.addressOutOfRange (max s.i.toNat 4096) (encode ins) s.pc)) := by
  rw [State.withTransfer, if_neg (mt (transferFits_eq s n).1 h), transferFault_eq]

/-- Everything a transfer can do. -/
theorem withTransfer_cases {s t : State} {ins : Instr} {n : Nat} {done : State} (h : s.withTransfer ins n done = .next t) :
    ((n = 0 ∨ s.i.toNat + n ≤ 4096) ∧ t = done) ∨
    (¬ (n = 0 ∨ s.i.toNat + n ≤ 4096) ∧ t = raise s (.addressOutOfRange (max s.i.toNat 4096) (encode ins) s.pc)) := by
  by_cases hf : n = 0 ∨ s.i.toNat + n ≤ 4096
  · rw [withTransfer_fits _ _ hf] at h
    exact .inl ⟨hf, by cases h; rfl⟩
  · rw [withTransfer_faults _ _ hf] at h
    exact .inr ⟨hf, by cases h; rfl⟩

/-- A push on a stack with a free slot (R17). -/
theorem push?_free {s : State} (a : Word) (h : s.sp.val < 16) :
    s.push? a = some { s with stack := s.stack.set s.sp.val a, sp := ⟨s.sp.val + 1, by omega⟩ } := dif_pos h

/-- A push on a full stack (R17). -/
theorem push?_full {s : State} (a : Word) (h : ¬ s.sp.val < 16) : s.push? a = none := dif_neg h

/-- A pop from a stack that is not empty (R17). -/
theorem pop?_held {s : State} (h : 0 < s.sp.val) :
    s.pop? = some (s.stack[s.sp.val - 1]'(by omega), { s with sp := ⟨s.sp.val - 1, by omega⟩ }) := dif_pos h

/-- A pop from an empty stack (R17). -/
theorem pop?_empty {s : State} (h : ¬ 0 < s.sp.val) : s.pop? = none := dif_neg h

/-- A call with a free slot (R83). -/
theorem execCall_free {nnn : Addr12} {s : State} (h : s.sp.val < 16) :
    execCall nnn s =
      .next { s with stack := s.stack.set s.sp.val s.pc, sp := ⟨s.sp.val + 1, by omega⟩, pc := zext16 nnn } := by
  simp only [execCall, push?_free _ h]; rfl

/-- A call with a full stack (R83, R142). -/
theorem execCall_full {nnn : Addr12} {s : State} (h : ¬ s.sp.val < 16) :
    execCall nnn s = .next (raise s (.stackOverflow (encode (.call nnn)) s.pc)) := by
  simp only [execCall, push?_full _ h]

/-- A return with a slot held (R81). -/
theorem execRet_held {s : State} (h : 0 < s.sp.val) :
    execRet s = .next { s with sp := ⟨s.sp.val - 1, by omega⟩, pc := s.stack[s.sp.val - 1]'(by omega) + 2 } := by
  simp only [execRet, pop?_held h]; rfl

/-- A return with an empty stack (R81, R143). -/
theorem execRet_empty {s : State} (h : ¬ 0 < s.sp.val) : execRet s = .next (raise s (.stackUnderflow 0x00EE s.pc)) := by
  simp only [execRet, pop?_empty h]; rfl

/-- Everything a call can do (R83). -/
theorem execCall_cases {nnn : Addr12} {s t : State} (h : execCall nnn s = .next t) :
    (∃ h16 : s.sp.val < 16,
      t = { s with stack := s.stack.set s.sp.val s.pc, sp := ⟨s.sp.val + 1, by omega⟩, pc := zext16 nnn }) ∨
    (¬ s.sp.val < 16 ∧ t = raise s (.stackOverflow (encode (.call nnn)) s.pc)) := by
  by_cases h16 : s.sp.val < 16
  · rw [execCall_free h16] at h
    exact .inl ⟨h16, by cases h; rfl⟩
  · rw [execCall_full h16] at h
    exact .inr ⟨h16, by cases h; rfl⟩

/-- Everything a return can do (R81). -/
theorem execRet_cases {s t : State} (h : execRet s = .next t) :
    (∃ h0 : 0 < s.sp.val,
      t = { s with sp := ⟨s.sp.val - 1, by omega⟩, pc := s.stack[s.sp.val - 1]'(by omega) + 2 }) ∨
    (¬ 0 < s.sp.val ∧ t = raise s (.stackUnderflow 0x00EE s.pc)) := by
  by_cases h0 : 0 < s.sp.val
  · rw [execRet_held h0] at h
    exact .inl ⟨h0, by cases h; rfl⟩
  · rw [execRet_empty h0] at h
    exact .inr ⟨h0, by cases h; rfl⟩

/-- The number of a joined word (R33). -/
theorem joinWord_toNat (hi lo : Byte) : (joinWord hi lo).toNat = 256 * hi.toNat + lo.toNat := append_toNat hi lo

/-- A fetch from an address whose two bytes exist (R36). -/
theorem fetchWord_ok {s : State} (h : s.pc.toNat ≤ 0xFFE) :
    fetchWord s = .ok (joinWord (s.readByte s.pc.toNat) (s.readByte (s.pc.toNat + 1))) :=
  if_pos (show s.pc.toNat + 1 < 4096 by omega)

/-- A fetch outside memory (R36). -/
theorem fetchWord_out {s : State} (h : ¬ s.pc.toNat ≤ 0xFFE) : fetchWord s = .error (.fetchOutOfRange s.pc) :=
  if_neg (show ¬ s.pc.toNat + 1 < 4096 by omega)

/-- The word a successful fetch joins, as a number. -/
theorem fetched_toNat (s : State) : (joinWord (s.readByte s.pc.toNat) (s.readByte (s.pc.toNat + 1))).toNat = wordAtPc s :=
  joinWord_toNat _ _

end Sys2Proof.Machine
end

