-- ==== Sys2Proof/Laws/PerInstr.lean ====
section
/-!
SUPPORT. What holds of every instruction as syntax: its encoding is selected by its own row of the opcode map (R56).
-/

namespace Sys2Proof.Laws

/-- Masking with 0xF000 leaves the class of a word of format A (R52, R56). -/
theorem mask_encodeA (c : Nibble) (nnn : Addr12) : encodeA c nnn &&& 0xF000 = encodeA c 0 := by
  have h : (0xF000 : Word) = (0xF : Nibble) ++ (0x000 : Addr12) := rfl
  have h1 : c &&& 0xF = c := BitVec.and_allOnes
  have h2 : nnn &&& 0x000 = 0 := BitVec.and_zero
  rw [h, encodeA, encodeA, BitVec.and_append, h1, h2]

/-- Masking with 0xF0FF leaves the class and the selector of a word of format XK (R52, R56). -/
theorem mask_encodeXK (c : Nibble) (x : Reg) (nn : Byte) : encodeXI c x nn &&& 0xF0FF = encodeXI c 0 nn := by
  have h : (0xF0FF : Word) = (0xF : Nibble) ++ ((0x0 : Nibble) ++ (0xFF : Byte) : Addr12) := rfl
  have h1 : c &&& 0xF = c := BitVec.and_allOnes
  have h2 : (BitVec.ofFin x : Nibble) &&& 0x0 = 0 := BitVec.and_zero
  have h3 : nn &&& 0xFF = nn := BitVec.and_allOnes
  rw [h, encodeXI, encodeXI, BitVec.and_append, BitVec.and_append, h1, h2, h3]
  rfl

/-- Masking with 0xF00F leaves the class and the selector of a word of format XY (R52, R56). -/
theorem mask_encodeXY (c : Nibble) (x y : Reg) (n : Nibble) : encodeXYN c x y n &&& 0xF00F = encodeXYN c 0 0 n := by
  have h : (0xF00F : Word) = (0xF : Nibble) ++ ((0x0 : Nibble) ++ ((0x0 : Nibble) ++ (0xF : Nibble) : Byte) : Addr12) := rfl
  have h1 : c &&& 0xF = c := BitVec.and_allOnes
  have h2 : (BitVec.ofFin x : Nibble) &&& 0x0 = 0 := BitVec.and_zero
  have h3 : (BitVec.ofFin y : Nibble) &&& 0x0 = 0 := BitVec.and_zero
  have h4 : n &&& 0xF = n := BitVec.and_allOnes
  rw [h, encodeXYN, encodeXYN, BitVec.and_append, BitVec.and_append, BitVec.and_append, h1, h2, h3, h4]
  rfl

end Sys2Proof.Laws

namespace Sys2Proof.Laws.EncodesItsRow

/-- The row of the opcode map at the instruction's place selects the instruction's word. -/
def Statement (ins : Instr) : Prop :=
  ∃ r : Row, opcodeTable[ins.rowIndex.val]? = some r ∧ r.selects (encode ins) = true

/-- The row is the one written and the masked word is its pattern. -/
theorem of_row {ins : Instr} {r : Row} (h : opcodeTable[ins.rowIndex.val]? = some r) (hm : encode ins &&& r.mask = r.pattern) :
    Statement ins := ⟨r, h, by simp [Row.selects, hm]⟩

theorem cls : Statement (.cls) := of_row rfl (rfl)
theorem ret : Statement (.ret) := of_row rfl (rfl)
theorem jp (nnn : Addr12) : Statement (.jp nnn) := of_row rfl (mask_encodeA _ _)
theorem call (nnn : Addr12) : Statement (.call nnn) := of_row rfl (mask_encodeA _ _)
theorem seImm (x : Reg) (nn : Byte) : Statement (.seImm x nn) := of_row rfl (mask_encodeA _ _)
theorem sneImm (x : Reg) (nn : Byte) : Statement (.sneImm x nn) := of_row rfl (mask_encodeA _ _)
theorem seReg (x y : Reg) : Statement (.seReg x y) := of_row rfl (mask_encodeXY _ _ _ _)
theorem sneReg (x y : Reg) : Statement (.sneReg x y) := of_row rfl (mask_encodeXY _ _ _ _)
theorem ldImm (x : Reg) (nn : Byte) : Statement (.ldImm x nn) := of_row rfl (mask_encodeA _ _)
theorem addImm (x : Reg) (nn : Byte) : Statement (.addImm x nn) := of_row rfl (mask_encodeA _ _)
theorem ldReg (x y : Reg) : Statement (.ldReg x y) := of_row rfl (mask_encodeXY _ _ _ _)
theorem orReg (x y : Reg) : Statement (.orReg x y) := of_row rfl (mask_encodeXY _ _ _ _)
theorem andReg (x y : Reg) : Statement (.andReg x y) := of_row rfl (mask_encodeXY _ _ _ _)
theorem xorReg (x y : Reg) : Statement (.xorReg x y) := of_row rfl (mask_encodeXY _ _ _ _)
theorem addReg (x y : Reg) : Statement (.addReg x y) := of_row rfl (mask_encodeXY _ _ _ _)
theorem subReg (x y : Reg) : Statement (.subReg x y) := of_row rfl (mask_encodeXY _ _ _ _)
theorem shr (x y : Reg) : Statement (.shr x y) := of_row rfl (mask_encodeXY _ _ _ _)
theorem subnReg (x y : Reg) : Statement (.subnReg x y) := of_row rfl (mask_encodeXY _ _ _ _)
theorem shl (x y : Reg) : Statement (.shl x y) := of_row rfl (mask_encodeXY _ _ _ _)
theorem ldI (nnn : Addr12) : Statement (.ldI nnn) := of_row rfl (mask_encodeA _ _)
theorem jpV0 (nnn : Addr12) : Statement (.jpV0 nnn) := of_row rfl (mask_encodeA _ _)
theorem rnd (x : Reg) (nn : Byte) : Statement (.rnd x nn) := of_row rfl (mask_encodeA _ _)
theorem drw (x y : Reg) (n : Nibble) : Statement (.drw x y n) := of_row rfl (mask_encodeA _ _)
theorem skp (x : Reg) : Statement (.skp x) := of_row rfl (mask_encodeXK _ _ _)
theorem sknp (x : Reg) : Statement (.sknp x) := of_row rfl (mask_encodeXK _ _ _)
theorem ldVxDt (x : Reg) : Statement (.ldVxDt x) := of_row rfl (mask_encodeXK _ _ _)
theorem ldDtVx (x : Reg) : Statement (.ldDtVx x) := of_row rfl (mask_encodeXK _ _ _)
theorem ldStVx (x : Reg) : Statement (.ldStVx x) := of_row rfl (mask_encodeXK _ _ _)
theorem addI (x : Reg) : Statement (.addI x) := of_row rfl (mask_encodeXK _ _ _)
theorem ldF (x : Reg) : Statement (.ldF x) := of_row rfl (mask_encodeXK _ _ _)
theorem ldB (x : Reg) : Statement (.ldB x) := of_row rfl (mask_encodeXK _ _ _)
theorem store (x : Reg) : Statement (.store x) := of_row rfl (mask_encodeXK _ _ _)
theorem load (x : Reg) : Statement (.load x) := of_row rfl (mask_encodeXK _ _ _)

end Sys2Proof.Laws.EncodesItsRow
end

