-- ==== Sys2Proof/Laws/Step.lean ====
section
/-!
SUPPORT. Everything a fetch and a step can do.
-/

namespace Sys2Proof.Machine

/-- Everything fetch and decode can answer (R70, steps 2 to 4). -/
theorem fetchInstr_cases (s : State) :
    (s.pc.toNat ≤ 0xFFE ∧ ∃ w : Word, w.toNat = wordAtPc s ∧
      ((∃ ins, decode w = .ok ins ∧ fetchInstr s = .ok ins) ∨
       (decode w = .error (.undefinedOpcode w) ∧ fetchInstr s = .error (.undefinedOpcode w s.pc)))) ∨
    (¬ s.pc.toNat ≤ 0xFFE ∧ fetchInstr s = .error (.fetchOutOfRange s.pc)) := by
  by_cases h : s.pc.toNat ≤ 0xFFE
  · refine .inl ⟨h, _, fetched_toNat s, ?_⟩
    cases hd : decode (joinWord (s.readByte s.pc.toNat) (s.readByte (s.pc.toNat + 1))) with
    | ok ins => exact .inl ⟨ins, rfl, by simp [fetchInstr, fetchWord_ok h, hd]⟩
    | error e =>
      obtain rfl := decode_error hd
      exact .inr ⟨rfl, by simp [fetchInstr, fetchWord_ok h, hd]⟩
  · exact .inr ⟨h, by simp [fetchInstr, fetchWord_out h]⟩

/-- The step of a faulted core (R20). -/
theorem step_faulted {s : State} {f : Fault} (h : s.status = .faulted f) : step s = .next s := by
  simp [step, h]

/-- The step of a running core whose fetch answers an instruction (R70). -/
theorem step_exec {s : State} {ins : Instr} (h : s.status = .running) (hf : fetchInstr s = .ok ins) : step s = exec ins s := by
  simp [step, h, hf]

/-- The step of a running core whose fetch or decode raises (R71). -/
theorem step_raise {s : State} {f : Fault} (h : s.status = .running) (hf : fetchInstr s = .error f) :
    step s = .next (raise s f) := by
  simp [step, h, hf]

/-- Everything a step can do. -/
theorem step_cases {s t : State} (h : step s = .next t) :
    ((∃ f, s.status = .faulted f) ∧ t = s) ∨
    (s.status = .running ∧ s.pc.toNat ≤ 0xFFE ∧ ∃ (w : Word) (ins : Instr), w.toNat = wordAtPc s ∧ decode w = .ok ins ∧
      exec ins s = .next t) ∨
    (s.status = .running ∧ s.pc.toNat ≤ 0xFFE ∧ ∃ w : Word, w.toNat = wordAtPc s ∧
      decode w = .error (.undefinedOpcode w) ∧ t = raise s (.undefinedOpcode w s.pc)) ∨
    (s.status = .running ∧ ¬ s.pc.toNat ≤ 0xFFE ∧ t = raise s (.fetchOutOfRange s.pc)) := by
  cases hs : s.status with
  | faulted f =>
    rw [step_faulted hs] at h
    exact .inl ⟨⟨f, rfl⟩, by cases h; rfl⟩
  | running =>
    rcases fetchInstr_cases s with ⟨hp, w, hw, ⟨ins, hd, hf⟩ | ⟨hd, hf⟩⟩ | ⟨hp, hf⟩
    · rw [step_exec hs hf] at h
      exact .inr (.inl ⟨rfl, hp, w, ins, hw, hd, h⟩)
    · rw [step_raise hs hf] at h
      exact .inr (.inr (.inl ⟨rfl, hp, w, hw, hd, by cases h; rfl⟩))
    · rw [step_raise hs hf] at h
      exact .inr (.inr (.inr ⟨rfl, hp, by cases h; rfl⟩))

end Sys2Proof.Machine
end

