-- ==== Sys2Proof/Tests/Slice0.lean ====
section
/-!
SUPPORT. The model's own tests. Every expected value is the spec's: the words of 95_test_vectors.md 2.7, the rows of its
tables (V-C, V-A, V-M, V-D, V-P, V-F) and the examples it takes from its source (S), each named in the docstring. At the end a
witness for every statement that has hypotheses.
-/

namespace Sys2Proof.Tests

open Sys2Proof.Machine

/-! ### Decoding: the words of 95_test_vectors.md 2.7, one for each constructor -/

/-- Rows 1 to 8 of 2.7, control flow. -/
theorem test_decode_control :
    decode 0x00E0 = .ok .cls ∧ decode 0x00EE = .ok .ret ∧ decode 0x1ABC = .ok (.jp 0xABC) ∧
    decode 0x2ABC = .ok (.call 0xABC) ∧ decode 0x3A7F = .ok (.seImm 10 0x7F) ∧ decode 0x4A7F = .ok (.sneImm 10 0x7F) ∧
    decode 0x5AB0 = .ok (.seReg 10 11) ∧ decode 0x9AB0 = .ok (.sneReg 10 11) := by decide +kernel

/-- Rows 9 to 19 of 2.7, registers and ALU. -/
theorem test_decode_alu :
    decode 0x6A7F = .ok (.ldImm 10 0x7F) ∧ decode 0x7A7F = .ok (.addImm 10 0x7F) ∧ decode 0x8AB0 = .ok (.ldReg 10 11) ∧
    decode 0x8AB1 = .ok (.orReg 10 11) ∧ decode 0x8AB2 = .ok (.andReg 10 11) ∧ decode 0x8AB3 = .ok (.xorReg 10 11) ∧
    decode 0x8AB4 = .ok (.addReg 10 11) ∧ decode 0x8AB5 = .ok (.subReg 10 11) ∧ decode 0x8AB6 = .ok (.shr 10 11) ∧
    decode 0x8AB7 = .ok (.subnReg 10 11) ∧ decode 0x8ABE = .ok (.shl 10 11) := by decide +kernel

/-- Rows 20 to 23 of 2.7: index, indexed jump, random load, draw. -/
theorem test_decode_index_random_draw :
    decode 0xAABC = .ok (.ldI 0xABC) ∧ decode 0xBABC = .ok (.jpV0 0xABC) ∧ decode 0xCA7F = .ok (.rnd 10 0x7F) ∧
    decode 0xDAB7 = .ok (.drw 10 11 7) := by decide +kernel

/-- Rows 24 to 33 of 2.7: the keys, the stubs, FX1E and the transfers. -/
theorem test_decode_keys_and_transfers :
    decode 0xEA9E = .ok (.skp 10) ∧ decode 0xEAA1 = .ok (.sknp 10) ∧ decode 0xFA07 = .ok (.ldVxDt 10) ∧
    decode 0xFA15 = .ok (.ldDtVx 10) ∧ decode 0xFA18 = .ok (.ldStVx 10) ∧ decode 0xFA1E = .ok (.addI 10) ∧
    decode 0xFA29 = .ok (.ldF 10) ∧ decode 0xFA33 = .ok (.ldB 10) ∧ decode 0xFA55 = .ok (.store 10) ∧
    decode 0xFA65 = .ok (.load 10) := by decide +kernel

/-- 2.7: the byte at the lower address is the high one. -/
theorem test_decode_byte_order :
    decodeBytes 0xD5 0xA7 = .ok (.drw 5 10 7) ∧ decodeBytes 0xA7 0xD5 = .ok (.ldI 0x7D5) ∧
    decodeTableWord 16 0xD5A7 = some (.drw 5 10 7) ∧ decodeTableWord 16 0x0000 = none := by decide +kernel

/-- The encoder against the same words, an operand in every field. -/
theorem test_encode :
    encode (.call 0xABC) = 0x2ABC ∧ encode (.seImm 10 0x7F) = 0x3A7F ∧ encode (.sneReg 10 11) = 0x9AB0 ∧
    encode (.shl 10 11) = 0x8ABE ∧ encode (.drw 10 11 7) = 0xDAB7 ∧ encode (.sknp 10) = 0xEAA1 ∧
    encode (.load 10) = 0xFA65 := by decide

/-! ### Well-formedness: what each check refuses -/

/-- Undefined words of the vectors (S7, V-C20, V-C21, V-A44, V-A45, V-D2, V-P4, V-P9 to V-P11, V-F4). -/
def undefinedWords : List Word :=
  [0x0123, 0x0000, 0x5121, 0x9121, 0x8008, 0x800F, 0x00E1, 0x00FF, 0xE09F, 0xF00A, 0xF000, 0xF0FF]

/-- `wordDefined` refuses them. -/
theorem test_ill_formed_words : undefinedWords.all (fun w => !wordDefined w) = true := by decide +kernel

/-- The decoder refuses them by name, with the whole word. -/
theorem test_decode_refuses :
    undefinedWords.all (fun w => decide (decode w = .error (.undefinedOpcode w))) = true := by decide +kernel

/-- The check accepts words of 2.7. -/
theorem test_well_formed_words :
    ([0x00E0, 0x00EE, 0x1ABC, 0x5AB0, 0x8ABE, 0xDAB7, 0xEA9E, 0xFA65] : List Word).all wordDefined = true := by
  decide +kernel

/-- S1: an image of 3584 bytes is refused, one of 3583 is not. -/
theorem test_ill_formed_image :
    romFits (List.replicate 3584 0x00) = false ∧ romFits (List.replicate 3583 0x00) = true := by
  simp only [romFits, Config.maxRom, List.length_replicate]; decide

/-- R121: sixteen rows are no sprite, fifteen and none are. -/
theorem test_ill_formed_sprite :
    spriteFits (List.replicate 16 0xFF) = false ∧ spriteFits (List.replicate 15 0xFF) = true ∧ spriteFits [] = true := by
  decide

/-! ### The start state of the vectors, and one step from it -/

/-- The reset state with the grid all 0, as the vectors assume (95_test_vectors.md, conventions). -/
def start : State := { State.reset with px := clearGrid }

/-- The start state with some registers and I changed. -/
def startWith (regs : List (Reg × Byte)) (i : Word := 0x0000) : State :=
  { regs.foldl (fun s p => s.setReg p.1 p.2) start with i := i }

/-- A state with bytes stored at an address. -/
def bytesAt (a : Nat) (bs : List Byte) (s : State) : State := { s with mem := s.mem.writeBytes a bs }

/-- The next state of an answer. -/
def nextOf : Result → Option State
  | .next s => some s
  | .fault _ => none
  | .refused _ => none

/-- What one step leaves with the word at PC: PC, and what `f` reads of the state. -/
def runs {α : Type} (w : Nat) (s : State) (f : State → α) : Option (Answer × Word × α) :=
  (nextOf (step (s.withFetchWord 16 w))).map fun t => (t.answer, t.pc, f t)

/-- The registers named, after the step. -/
def regsOf (ks : List Reg) (t : State) : List Byte := ks.map t.reg

/-- The bytes at an address, after the step. -/
def bytesOf (a n : Nat) (t : State) : List Byte := t.mem.readBytes a n

/-! ### Control flow -/

/-- V-C1, V-C2. -/
theorem test_ret :
    runs 0x00EE start (fun t => t.sp) = some (.fault (.stackUnderflow 0x00EE 0x0200), 0x0200, 0) ∧
    runs 0x00EE { start with sp := 1, stack := start.stack.set 0 0x0204 } (fun t => (t.sp, t.stack[0])) =
      some (.ok, 0x0206, 0, 0x0204) := by decide

/-- V-C3. -/
theorem test_ret_full_stack :
    runs 0x00EE { start with sp := 16, stack := start.stack.set 15 0x0FFE } (fun t => t.sp) = some (.ok, 0x1000, 15) := by
  decide

/-- V-C4, V-C5. -/
theorem test_jp :
    runs 0x1FFF start (fun _ => ()) = some (.ok, 0x0FFF, ()) ∧ runs 0x1201 start (fun _ => ()) = some (.ok, 0x0201, ()) := by
  decide

/-- V-C6, V-C7. -/
theorem test_call :
    runs 0x2FFF { start with sp := 15 } (fun t => (t.sp, t.stack[15], t.stack[14])) = some (.ok, 0x0FFF, 16, 0x0200, 0x0000) ∧
    runs 0x2200 { start with sp := 16 } (fun t => (t.sp, t.stack[15])) =
      some (.fault (.stackOverflow 0x2200 0x0200), 0x0200, 16, 0x0000) := by decide

/-- V-C9, V-C11. -/
theorem test_jp_v0 :
    runs 0xBFFF (startWith [(0, 0xFF)]) (fun _ => ()) = some (.ok, 0x10FE, ()) ∧
    runs 0xB300 (startWith [(0, 0x04), (3, 0x77)]) (fun _ => ()) = some (.ok, 0x0304, ()) := by decide

/-- V-C12, V-C13. -/
theorem test_se_imm :
    runs 0x3F01 (startWith [(15, 0x01)]) (fun _ => ()) = some (.ok, 0x0204, ()) ∧
    runs 0x332B (startWith [(3, 0x2A)]) (fun _ => ()) = some (.ok, 0x0202, ()) := by decide

/-- V-C14, V-C15. -/
theorem test_sne_imm :
    runs 0x4F01 (startWith [(15, 0x01)]) (fun _ => ()) = some (.ok, 0x0202, ()) ∧
    runs 0x432B (startWith [(3, 0x2A)]) (fun _ => ()) = some (.ok, 0x0204, ()) := by decide

/-- V-C16, V-C17. -/
theorem test_se_reg :
    runs 0x5110 (startWith [(1, 0x9C)]) (fun _ => ()) = some (.ok, 0x0204, ()) ∧
    runs 0x5120 (startWith [(1, 0x07), (2, 0x08)]) (fun _ => ()) = some (.ok, 0x0202, ()) := by decide

/-- V-C18, V-C19. -/
theorem test_sne_reg :
    runs 0x9110 (startWith [(1, 0x9C)]) (fun _ => ()) = some (.ok, 0x0202, ()) ∧
    runs 0x9120 (startWith [(1, 0x07), (2, 0x08)]) (fun _ => ()) = some (.ok, 0x0204, ()) := by decide

/-- V-C22, V-C23: the instruction at the last legal address runs. -/
theorem test_last_address :
    runs 0x3000 { start with pc := 0x0FFE } (fun _ => ()) = some (.ok, 0x1002, ()) ∧
    runs 0x6000 { start with pc := 0x0FFE } (fun _ => ()) = some (.ok, 0x1000, ()) := by decide

/-! ### Registers and ALU -/

/-- V-A1, V-A2. -/
theorem test_ld_imm :
    runs 0x6A2F start (regsOf [10, 15]) = some (.ok, 0x0202, [0x2F, 0x00]) ∧
    runs 0x6F07 start (regsOf [15]) = some (.ok, 0x0202, [0x07]) := by decide

/-- V-A3, V-A5. -/
theorem test_add_imm :
    runs 0x7002 (startWith [(0, 0xFF)]) (regsOf [0, 15]) = some (.ok, 0x0202, [0x01, 0x00]) ∧
    runs 0x7F01 (startWith [(15, 0xFF)]) (regsOf [15]) = some (.ok, 0x0202, [0x00]) := by decide

/-- V-A6. -/
theorem test_ld_reg :
    runs 0x80F0 (startWith [(0, 0x01), (15, 0x07)]) (regsOf [0, 15]) = some (.ok, 0x0202, [0x07, 0x07]) := by decide

/-- V-A7, V-A8. -/
theorem test_or :
    runs 0x8121 (startWith [(1, 0xF0), (2, 0x0F), (15, 0x55)]) (regsOf [1, 2, 15]) = some (.ok, 0x0202, [0xFF, 0x0F, 0x55]) ∧
    runs 0x8FF1 (startWith [(15, 0xAA)]) (regsOf [15]) = some (.ok, 0x0202, [0xAA]) := by decide

/-- V-A9. -/
theorem test_and :
    runs 0x8122 (startWith [(1, 0xF0), (2, 0x3C)]) (regsOf [1, 2]) = some (.ok, 0x0202, [0x30, 0x3C]) := by decide

/-- V-A10, V-A11. -/
theorem test_xor :
    runs 0x8123 (startWith [(1, 0xF0), (2, 0x3C)]) (regsOf [1, 2]) = some (.ok, 0x0202, [0xCC, 0x3C]) ∧
    runs 0x8FF3 (startWith [(15, 0xAA)]) (regsOf [15]) = some (.ok, 0x0202, [0x00]) := by decide

/-- V-A12, V-A13 (S4). -/
theorem test_add_reg :
    runs 0x8124 (startWith [(1, 0xFF), (2, 0x01)]) (regsOf [1, 2, 15]) = some (.ok, 0x0202, [0x00, 0x01, 0x01]) ∧
    runs 0x8124 (startWith [(1, 0x01), (2, 0x01)]) (regsOf [1, 2, 15]) = some (.ok, 0x0202, [0x02, 0x01, 0x00]) := by decide

/-- V-A16, V-A17, V-A18: the flag register as destination and as source. -/
theorem test_add_reg_flag_operand :
    runs 0x8F04 (startWith [(15, 0xFF), (0, 0x02)]) (regsOf [15]) = some (.ok, 0x0202, [0x01]) ∧
    runs 0x80F4 (startWith [(0, 0x10), (15, 0x01)]) (regsOf [0, 15]) = some (.ok, 0x0202, [0x11, 0x00]) ∧
    runs 0x8FF4 (startWith [(15, 0x90)]) (regsOf [15]) = some (.ok, 0x0202, [0x01]) := by decide

/-- V-A19, V-A20 (S5), V-A21. -/
theorem test_sub_reg :
    runs 0x8125 (startWith [(1, 0x05), (2, 0x01)]) (regsOf [1, 15]) = some (.ok, 0x0202, [0x04, 0x01]) ∧
    runs 0x8125 (startWith [(1, 0x01), (2, 0x05)]) (regsOf [1, 15]) = some (.ok, 0x0202, [0xFC, 0x00]) ∧
    runs 0x8125 (startWith [(1, 0x33), (2, 0x33)]) (regsOf [1, 15]) = some (.ok, 0x0202, [0x00, 0x01]) := by decide

/-- V-A24, V-A25. -/
theorem test_sub_reg_flag_operand :
    runs 0x8F05 (startWith [(15, 0x03), (0, 0x05)]) (regsOf [15]) = some (.ok, 0x0202, [0x00]) ∧
    runs 0x80F5 (startWith [(0, 0x01), (15, 0x01)]) (regsOf [0, 15]) = some (.ok, 0x0202, [0x00, 0x01]) := by decide

/-- V-A27, V-A28. -/
theorem test_shr :
    runs 0x8126 (startWith [(1, 0x04), (2, 0xFF)]) (regsOf [1, 2, 15]) = some (.ok, 0x0202, [0x02, 0xFF, 0x00]) ∧
    runs 0x8106 (startWith [(1, 0xFF)]) (regsOf [1, 15]) = some (.ok, 0x0202, [0x7F, 0x01]) := by decide

/-- V-A29, V-A30. -/
theorem test_shr_flag_operand :
    runs 0x8F06 (startWith [(15, 0x03)]) (regsOf [15]) = some (.ok, 0x0202, [0x01]) ∧
    runs 0x8F06 (startWith [(15, 0x02)]) (regsOf [15]) = some (.ok, 0x0202, [0x00]) := by decide

/-- V-A31, V-A32. -/
theorem test_subn_reg :
    runs 0x8127 (startWith [(1, 0x01), (2, 0x05)]) (regsOf [1, 2, 15]) = some (.ok, 0x0202, [0x04, 0x05, 0x01]) ∧
    runs 0x8127 (startWith [(1, 0x05), (2, 0x01)]) (regsOf [1, 2, 15]) = some (.ok, 0x0202, [0xFC, 0x01, 0x00]) := by decide

/-- V-A36, V-A37. -/
theorem test_shl :
    runs 0x812E (startWith [(1, 0xFF), (2, 0x00)]) (regsOf [1, 2, 15]) = some (.ok, 0x0202, [0xFE, 0x00, 0x01]) ∧
    runs 0x810E (startWith [(1, 0x40)]) (regsOf [1, 15]) = some (.ok, 0x0202, [0x80, 0x00]) := by decide

/-- V-A39. -/
theorem test_shl_flag_operand :
    runs 0x8F0E (startWith [(15, 0x40)]) (regsOf [15]) = some (.ok, 0x0202, [0x00]) := by decide

/-- V-A42: with the mask 00 the result is 00 for every random byte. -/
theorem test_rnd_zero_mask (b : Byte) : (0x00 : Byte) &&& b = 0x00 := by simp

/-- V-A43: PC and the other registers, which the random byte does not reach. -/
theorem test_rnd :
    runs 0xC30F (startWith [(0, 0x11)]) (regsOf [0, 15]) = some (.ok, 0x0202, [0x11, 0x00]) := by decide

/-! ### Index register and transfers -/

/-- V-M1, V-M2. -/
theorem test_ld_i :
    runs 0xA2F0 start (fun t => t.i) = some (.ok, 0x0202, 0x02F0) ∧
    runs 0xAFFF (startWith [] 0x1234) (fun t => t.i) = some (.ok, 0x0202, 0x0FFF) := by decide

/-- V-M4, V-M5. -/
theorem test_add_i :
    runs 0xF01E (startWith [(0, 0x01)] 0x0FFF) (fun t => (t.i, t.reg 15)) = some (.ok, 0x0202, 0x1000, 0x00) ∧
    runs 0xF01E (startWith [(0, 0x02)] 0xFFFF) (fun t => (t.i, t.reg 15)) = some (.ok, 0x0202, 0x0001, 0x00) := by decide

/-- V-M7, V-M8. -/
theorem test_ld_b :
    runs 0xF033 (startWith [(0, 0xFE)] 0x0300) (bytesOf 0x2FF 5) = some (.ok, 0x0202, [0x00, 0x02, 0x05, 0x04, 0x00]) ∧
    runs 0xF033 (bytesAt 0x300 [0xAA, 0xAA, 0xAA] (startWith [] 0x0300)) (bytesOf 0x300 3) =
      some (.ok, 0x0202, [0x00, 0x00, 0x00]) := by decide

/-- V-M12, V-M13. -/
theorem test_ld_b_bounds :
    runs 0xF033 (startWith [(0, 0xFF)] 0x0FFD) (bytesOf 0xFFD 3) = some (.ok, 0x0202, [0x02, 0x05, 0x05]) ∧
    runs 0xF033 (startWith [(0, 0xFF)] 0x0FFE) (bytesOf 0xFFE 2) =
      some (.fault (.addressOutOfRange 0x1000 0xF033 0x0200), 0x0200, [0x00, 0x00]) := by decide

/-- V-M15. -/
theorem test_store :
    runs 0xF155 (startWith [(0, 0x12), (1, 0x0A), (2, 0x99)] 0x0208) (fun t => (bytesOf 0x208 3 t, t.i)) =
      some (.ok, 0x0202, [0x12, 0x0A, 0x00], 0x0208) := by decide

/-- V-M18, V-M19. -/
theorem test_store_bounds :
    runs 0xFF55 (startWith [(0, 0x01), (15, 0xEE)] 0x0FF0) (bytesOf 0xFF0 16) =
      some (.ok, 0x0202, [0x01, 0, 0, 0, 0, 0, 0, 0, 0, 0, 0, 0, 0, 0, 0, 0xEE]) ∧
    runs 0xFF55 (startWith [(0, 0x01), (15, 0xEE)] 0x0FF1) (bytesOf 0xFF1 1) =
      some (.fault (.addressOutOfRange 0x1000 0xFF55 0x0200), 0x0200, [0x00]) := by decide

/-- V-M20, V-M22. -/
theorem test_load :
    runs 0xF265 (bytesAt 0x300 [0x02, 0x05, 0x04, 0x77] (startWith [(3, 0x11)] 0x0300)) (fun t => (regsOf [0, 1, 2, 3] t, t.i)) =
      some (.ok, 0x0202, [0x02, 0x05, 0x04, 0x11], 0x0300) ∧
    runs 0xF165 (startWith [] 0x0200) (regsOf [0, 1]) = some (.ok, 0x0202, [0xF1, 0x65]) := by decide

/-- V-M24, V-M23. -/
theorem test_load_bounds :
    runs 0xFF65 (bytesAt 0xFFF [0x01] (startWith [(0, 0x77)] 0x0FF0)) (regsOf [0, 14, 15]) = some (.ok, 0x0202, [0x00, 0x00, 0x01]) ∧
    runs 0xFF65 (startWith [(0, 0x77)] 0x0FF1) (regsOf [0]) =
      some (.fault (.addressOutOfRange 0x1000 0xFF65 0x0200), 0x0200, [0x77]) := by decide

/-! ### Display -/

/-- A grid with the given pixels set, (column, row). -/
def gridOf (l : List (Fin 64 × Fin 32)) : Grid := l.foldl (fun g p => setPixel g p.1 p.2 true) clearGrid

/-- V-D1. -/
theorem test_cls :
    runs 0x00E0 { startWith [(15, 0x01)] with px := gridOf [(0, 0), (63, 31)] } (fun t => (t.px, t.reg 15)) =
      some (.ok, 0x0202, clearGrid, 0x01) := by decide

/-- V-D8: both wraps and the column order. -/
theorem test_drw_wraps :
    runs 0xD012 (bytesAt 0x210 [0xF0, 0x81] (startWith [(0, 0x3E), (1, 0x1F)] 0x0210)) (fun t => (t.px, t.reg 15)) =
      some (.ok, 0x0202, gridOf [(62, 31), (63, 31), (0, 31), (1, 31), (62, 0), (5, 0)], 0x00) := by decide

/-- V-D5: one collision is enough. -/
theorem test_drw_collision :
    runs 0xD011 { bytesAt 0x300 [0xC0] (startWith [] 0x0300) with px := gridOf [(1, 0)] } (fun t => (t.px, t.reg 15)) =
      some (.ok, 0x0202, gridOf [(0, 0)], 0x01) := by decide

/-- V-D11, V-D14: no row, no bounds check; fifteen rows from 0x0FF2 do not fit. -/
theorem test_drw_bounds :
    runs 0xD010 (startWith [(0, 0x01), (1, 0x01), (15, 0x01)] 0x2000) (fun t => (t.px, t.reg 15)) =
      some (.ok, 0x0202, clearGrid, 0x00) ∧
    runs 0xD01F (startWith [(15, 0x01)] 0x0FF2) (fun t => t.reg 15) =
      some (.fault (.addressOutOfRange 0x1000 0xD01F 0x0200), 0x0200, 0x01) := by decide

/-- Log entry 26: on a pixel that was lit before, the first call collides and the second does not, as R124 defines a
collision. -/
theorem test_second_composite_on_a_lit_pixel :
    (composite (gridOf [(0, 0)]) 0 0 [0x80]).2 = true ∧
    (composite (composite (gridOf [(0, 0)]) 0 0 [0x80]).1 0 0 [0x80]) = (gridOf [(0, 0)], false) := by decide

/-! ### Stubs and placeholders -/

/-- V-P1, V-P2, V-P3. -/
theorem test_key_skips :
    runs 0xE09E (startWith [(0, 0x05)]) (fun _ => ()) = some (.ok, 0x0202, ()) ∧
    runs 0xE0A1 (startWith [(0, 0x05)]) (fun _ => ()) = some (.ok, 0x0204, ()) ∧
    runs 0xEFA1 start (fun _ => ()) = some (.ok, 0x0204, ()) := by decide

/-- V-P5 to V-P8. -/
theorem test_stubs :
    runs 0xF007 (startWith [(0, 0x33)]) (regsOf [0]) = some (.ok, 0x0202, [0x33]) ∧
    runs 0xF315 (startWith [(3, 0x3C)]) (regsOf [3]) = some (.ok, 0x0202, [0x3C]) ∧
    runs 0xF318 (startWith [(3, 0x3C)]) (regsOf [3]) = some (.ok, 0x0202, [0x3C]) ∧
    runs 0xF029 (startWith [(0, 0x0A)] 0x0300) (fun t => (t.i, t.reg 0)) = some (.ok, 0x0202, 0x0300, 0x0A) := by decide

/-! ### Faults, the latch, reset and load -/

/-- V-F1, V-F2: the first step from the reset with the empty image, and the step after it. -/
theorem test_empty_image_faults :
    (nextOf (step State.reset)).map (fun t => (t.answer, t.pc)) = some (.fault (.undefinedOpcode 0x0000 0x0200), 0x0200) ∧
    ((nextOf (step State.reset)).bind (fun t => nextOf (step t))).map State.answer =
      some (.fault (.undefinedOpcode 0x0000 0x0200)) := by decide

/-- S7, V-C24: an undefined word, and a fetch at 0x0FFF. -/
theorem test_fetch_faults :
    runs 0x0123 start (regsOf [0]) = some (.fault (.undefinedOpcode 0x0123 0x0200), 0x0200, [0x00]) ∧
    (nextOf (step { start with pc := 0x0FFF })).map (fun t => (t.answer, t.pc)) =
      some (.fault (.fetchOutOfRange 0x0FFF), 0x0FFF) := by decide

/-- The state that a load answers. -/
def loaded : Except LoadError State → Option State
  | .ok s => some s
  | .error _ => none

/-- S1: a short image lands at 0x200, the bytes around it are 0; a faulted machine runs again (V-F3). -/
theorem test_load_image :
    (loaded (construct 0 [0x12, 0x00, 0xAB])).map (bytesOf 0x1FF 5) = some [0x00, 0x12, 0x00, 0xAB, 0x00] ∧
    (loaded (hostReset [0x12, 0x00] { start with status := .faulted (.fetchOutOfRange 0x0FFF), pc := 0x0FFF })).map
      (fun t => (t.answer, t.pc)) = some (.ok, 0x0200) := by decide

/-- V-C8: a jump to itself is a fixed point of the step. -/
theorem test_self_jump : runs 0x1200 start (fun t => t.v) = some (.ok, 0x0200, start.v) := by decide

/-! ### Witnesses: a state and operands that meet the hypotheses of each statement, at the edge of each clause -/

/-- What a computed answer tells of the step itself. -/
theorem next_of_nextOf {α : Type} {r : Result} (f : State → α) {a : α} (h : (nextOf r).map f = some a) :
    ∃ t, r = .next t ∧ f t = a := by
  cases r with
  | next t => exact ⟨t, rfl, by simpa [nextOf] using h⟩
  | fault _ => simp [nextOf] at h
  | refused _ => simp [nextOf] at h

/-- A running state with the word at PC. -/
def placed (w : Nat) (s : State := start) : State := s.withFetchWord 16 w

theorem witness_EncodeOfDecodeIsIdentity : ∃ w ins, decode w = .ok ins := ⟨0x8ABE, .shl 10 11, by decide⟩

/-- The first and the last word of the table, and the neighbours that it leaves out. -/
theorem witness_DecodeSelectsByClassAndSelector :
    selectedByClass 0x00E0 ∧ selectedByClass 0x1000 ∧ selectedByClass 0x5FF0 ∧ selectedByClass 0x800E ∧
    selectedByClass 0x9000 ∧ selectedByClass 0xE0A1 ∧ selectedByClass 0xFF65 ∧ ¬ selectedByClass 0x0FFF ∧
    ¬ selectedByClass 0x5FF1 ∧ ¬ selectedByClass 0x8008 ∧ ¬ selectedByClass 0xE0A2 ∧ ¬ selectedByClass 0xFF66 := by
  and_intros <;> decide

theorem witness_OpcodeMapRowsSelectWhatDecodes :
    (∃ w ins, decode w = .ok ins) ∧ (∃ w, wordDefined w = false) ∧
    ∃ (w : Word) (r r' : Row), r ∈ opcodeTable ∧ r' ∈ opcodeTable ∧ r.selects w = true ∧ r'.selects w = true :=
  ⟨⟨0xFA65, .load 10, by decide⟩, ⟨0x0000, by decide⟩, 0x00E0, ⟨"CLS", 0xFFFF, 0x00E0⟩, ⟨"CLS", 0xFFFF, 0x00E0⟩, by decide⟩

/-- At the highest PC, and at an odd one. -/
theorem witness_StepRunsTheDecodedInstruction : ∀ pc ∈ ([0x0FFE, 0x0201] : List Word), ∃ (s : State) (w : Word) (ins : Instr),
    s.pc = pc ∧ s.status = .running ∧ s.pc.toNat ≤ 0xFFE ∧
    w.toNat = 256 * (s.readByte s.pc.toNat).toNat + (s.readByte (s.pc.toNat + 1)).toNat ∧ decode w = .ok ins := by
  intro pc h
  simp only [List.mem_cons, List.not_mem_nil, or_false] at h
  rcases h with rfl | rfl
  · exact ⟨placed 0x6A2F { start with pc := 0x0FFE }, 0x6A2F, .ldImm 10 0x2F, by decide⟩
  · exact ⟨placed 0x6A2F { start with pc := 0x0201 }, 0x6A2F, .ldImm 10 0x2F, by decide⟩

theorem witness_UndefinedWordFaults : ∃ (s : State) (w : Word),
    s.status = .running ∧ s.pc.toNat ≤ 0xFFE ∧ w.toNat = wordAtPc s ∧ wordDefined w = false :=
  ⟨placed 0x5121 { start with pc := 0x0FFE }, 0x5121, by decide⟩

/-- The lowest and the highest PC that cannot be fetched from. -/
theorem witness_FetchOutsideMemoryFaults :
    (∃ s : State, s.status = .running ∧ s.pc.toNat = 0xFFF) ∧ ∃ s : State, s.status = .running ∧ s.pc.toNat = 0xFFFF :=
  ⟨⟨{ start with pc := 0x0FFF }, by decide⟩, ⟨{ start with pc := 0xFFFF }, by decide⟩⟩

theorem witness_FaultedCoreStaysAsItIs : ∃ (s : State) (f : Fault), s.status = .faulted f :=
  ⟨{ start with status := .faulted (.fetchOutOfRange 0x0FFF) }, .fetchOutOfRange 0x0FFF, rfl⟩

/-- A step of each cause, with the record it latches. -/
theorem step_latches (s : State) (f : Fault) (hs : s.status = .running)
    (h : (nextOf (step s)).map State.status = some (.faulted f)) :
    ∃ t, s.status = .running ∧ step s = .next t ∧ t.status = .faulted f :=
  let ⟨t, ht, hf⟩ := next_of_nextOf State.status h
  ⟨t, hs, ht, hf⟩

theorem witness_FaultWritesOnlyTheLatch : ∃ (s t : State) (f : Fault),
    s.status = .running ∧ step s = .next t ∧ t.status = .faulted f :=
  ⟨placed 0x00EE, let ⟨t, h⟩ := step_latches (placed 0x00EE) (.stackUnderflow 0x00EE 0x0200) rfl (by decide); ⟨t, _, h⟩⟩

theorem witness_EveryFaultRecordTellsItsCause_fetch : ∃ (s t : State) (pc : Word),
    s.status = .running ∧ step s = .next t ∧ t.status = .faulted (.fetchOutOfRange pc) :=
  ⟨{ start with pc := 0x0FFF },
    let ⟨t, h⟩ := step_latches { start with pc := 0x0FFF } (.fetchOutOfRange 0x0FFF) rfl (by decide); ⟨t, _, h⟩⟩

theorem witness_EveryFaultRecordTellsItsCause_undefined : ∃ (s t : State) (w pc : Word),
    s.status = .running ∧ step s = .next t ∧ t.status = .faulted (.undefinedOpcode w pc) :=
  ⟨placed 0x8008, let ⟨t, h⟩ := step_latches (placed 0x8008) (.undefinedOpcode 0x8008 0x0200) rfl (by decide); ⟨t, _, _, h⟩⟩

theorem witness_EveryFaultRecordTellsItsCause_stack : (∃ (s t : State) (w pc : Word),
    s.status = .running ∧ step s = .next t ∧ t.status = .faulted (.stackOverflow w pc)) ∧ ∃ (s t : State) (w pc : Word),
    s.status = .running ∧ step s = .next t ∧ t.status = .faulted (.stackUnderflow w pc) :=
  ⟨⟨placed 0x2200 { start with sp := 16 },
    let ⟨t, h⟩ := step_latches (placed 0x2200 { start with sp := 16 }) (.stackOverflow 0x2200 0x0200) rfl (by decide)
    ⟨t, _, _, h⟩⟩,
   ⟨placed 0x00EE, let ⟨t, h⟩ := step_latches (placed 0x00EE) (.stackUnderflow 0x00EE 0x0200) rfl (by decide); ⟨t, _, _, h⟩⟩⟩

/-- A transfer that does not fit, with the state and the word that show it. -/
theorem transfer_latches (w : Nat) (i : Word) (f : Fault) (hw : wordAtPc (placed w (startWith [] i)) = w)
    (h : (nextOf (step (placed w (startWith [] i)))).map State.status = some (.faulted f)) :
    ∃ s t : State, s.status = .running ∧ wordAtPc s = w ∧ s.i = i ∧ step s = .next t ∧ t.status = .faulted f :=
  let ⟨t, hs, ht, hf⟩ := step_latches _ f rfl h
  ⟨_, t, hs, hw, rfl, ht, hf⟩

/-- DXYN, FX33, FX55 and FX65, each at the lowest I from which it does not fit. -/
theorem witness_EveryFaultRecordTellsItsCause_transfer :
    (∃ s t : State, s.status = .running ∧ wordAtPc s = 0xD01F ∧ s.i = 0x0FF2 ∧ step s = .next t ∧
      t.status = .faulted (.addressOutOfRange 0x1000 0xD01F 0x0200)) ∧
    (∃ s t : State, s.status = .running ∧ wordAtPc s = 0xF033 ∧ s.i = 0x0FFE ∧ step s = .next t ∧
      t.status = .faulted (.addressOutOfRange 0x1000 0xF033 0x0200)) ∧
    (∃ s t : State, s.status = .running ∧ wordAtPc s = 0xFF55 ∧ s.i = 0x0FF1 ∧ step s = .next t ∧
      t.status = .faulted (.addressOutOfRange 0x1000 0xFF55 0x0200)) ∧
    ∃ s t : State, s.status = .running ∧ wordAtPc s = 0xFF65 ∧ s.i = 0x0FF1 ∧ step s = .next t ∧
      t.status = .faulted (.addressOutOfRange 0x1000 0xFF65 0x0200) :=
  ⟨transfer_latches 0xD01F 0x0FF2 _ (by decide) (by decide), transfer_latches 0xF033 0x0FFE _ (by decide) (by decide),
   transfer_latches 0xFF55 0x0FF1 _ (by decide) (by decide), transfer_latches 0xFF65 0x0FF1 _ (by decide) (by decide)⟩

/-- A store to the last byte, from canonical memory. -/
theorem witness_StepKeepsMemoryCanonical : ∃ s t : State, MemCanonical s ∧ step s = .next t ∧ t.readByte 0xFFF = 0xAB :=
  let ⟨t, h, e⟩ := next_of_nextOf (r := step (placed 0xF055 (startWith [(0, 0xAB)] 0x0FFF))) (fun t => t.readByte 0xFFF)
    (a := 0xAB) (by decide)
  ⟨_, t, by unfold MemCanonical; decide, h, e⟩

/-- BNNN to the highest PC there is. -/
theorem witness_StepKeepsPcAndStackBounds : ∃ s t : State, PcAndStackBounded s ∧ step s = .next t ∧ t.pc = 0x10FE :=
  let ⟨t, h, e⟩ := next_of_nextOf (r := step (placed 0xBFFF (startWith [(0, 0xFF)]))) State.pc (a := 0x10FE) (by decide)
  ⟨_, t, by unfold PcAndStackBounded; decide, h, e⟩

/-- A step that latches a record, from a core that holds none. -/
theorem witness_StepKeepsRecordAtPc : ∃ s t : State, RecordAtPc s ∧ step s = .next t ∧
    t.status = .faulted (.undefinedOpcode 0x00E1 0x0200) :=
  let ⟨t, hs, h, e⟩ := step_latches (placed 0x00E1) (.undefinedOpcode 0x00E1 0x0200) rfl (by decide)
  ⟨placed 0x00E1, t, (fun f hf => by rw [hs] at hf; cases hf), h, e⟩

/-- The longest image that is accepted, with two first bytes, and the shortest that is not. -/
theorem witness_LoadPlacesTheImage : ∃ rom rom' : List Byte, rom.length = 3583 ∧ rom[0]? = some 0xAB ∧ rom[1]? = some 0xAB ∧
    rom'.length = 3584 :=
  ⟨List.replicate 3583 0xAB, List.replicate 3584 0xAB, List.length_replicate, rfl, rfl, List.length_replicate⟩

/-- The same image into a running machine and into a faulted one. -/
theorem witness_ResetDiscardsTheOldState : ∃ (rom : List Byte) (s s' t t' : State),
    s.status ≠ s'.status ∧ hostReset rom s = .ok t ∧ hostReset rom s' = .ok t' :=
  ⟨[0x12, 0x00], start, { start with status := .faulted (.fetchOutOfRange 0x0FFF), pc := 0x0FFF }, _, _, by decide, rfl, rfl⟩

theorem witness_ResetOfAnyMachineRestarts : ∃ (rom : List Byte) (s : State), rom.length ≤ 3583 ∧ s.status ≠ .running :=
  ⟨[0x12, 0x00], { start with status := .faulted (.fetchOutOfRange 0x0FFF) }, by decide⟩

/-- The last free slot, and the full stack. -/
theorem witness_CallPushesItsOwnAddress : (∃ s : State, s.sp.val = 15) ∧ ∃ s : State, s.sp.val = 16 :=
  ⟨⟨{ start with sp := 15 }, rfl⟩, { start with sp := 16 }, rfl⟩

/-- One slot in use, all in use, none in use. -/
theorem witness_ReturnAddsTwoToThePoppedAddress :
    (∃ s : State, s.sp.val = 1) ∧ (∃ s : State, s.sp.val = 16) ∧ ∃ s : State, s.sp.val = 0 :=
  ⟨⟨{ start with sp := 1 }, rfl⟩, ⟨{ start with sp := 16 }, rfl⟩, start, rfl⟩

/-- A call at 0x200 to a return at 0xFFE, with one slot left. -/
theorem witness_CallThenReturnGoesOnAfterTheCall : ∃ (s : State) (nnn : Nat),
    s.status = .running ∧ s.pc.toNat ≤ 0xFFE ∧ nnn ≤ 0xFFE ∧ s.sp.val < 16 ∧ wordAtPc s = 0x2000 + nnn ∧
    (s.readByte nnn).toNat = 0x00 ∧ (s.readByte (nnn + 1)).toNat = 0xEE :=
  ⟨placed 0x2FFE (bytesAt 0xFFE [0x00, 0xEE] { start with sp := 15 }), 0xFFE, by decide⟩

theorem witness_SeventeenthCallOverflows : ∃ (s : State) (targets : List Addr12), s.sp.val = 0 ∧ targets.length = 16 :=
  ⟨start, List.replicate 16 0x200, by decide⟩

/-- The destination is not the flag register: its neighbour. (8XY4 to 8XY7 and 8XYE.) -/
theorem witness_destination_not_flag : ∃ x : Reg, x ≠ 15 ∧ x.val = 14 := ⟨14, by decide⟩

/-- The highest I from which the three digits fit. -/
theorem witness_BcdStoresThreeDigits : ∃ s : State, MemCanonical s ∧ s.i.toNat + 2 = 0xFFF :=
  ⟨startWith [(0, 0xFF)] 0x0FFD, by unfold MemCanonical; decide, by decide⟩

/-- The highest I from which sixteen bytes fit, and the highest for one. -/
theorem witness_StoreWritesV0ToVx :
    (∃ (x : Reg) (s : State), x.val = 15 ∧ MemCanonical s ∧ s.i.toNat + x.val = 0xFFF) ∧
    ∃ (x : Reg) (s : State), x.val = 0 ∧ MemCanonical s ∧ s.i.toNat + x.val = 0xFFF :=
  ⟨⟨15, startWith [] 0x0FF0, rfl, by unfold MemCanonical; decide, by decide⟩,
   0, startWith [] 0x0FFF, rfl, by unfold MemCanonical; decide, by decide⟩

theorem witness_LoadReadsV0ToVx : ∃ (x : Reg) (s : State), x.val = 15 ∧ s.i.toNat + x.val = 0xFFF :=
  ⟨15, startWith [] 0x0FF0, by decide⟩

/-- The lowest I from which each transfer does not fit. -/
theorem witness_TransferOutsideMemoryFaults :
    (∃ (n : Nibble) (s : State), 0 < n.toNat ∧ s.i.toNat + n.toNat - 1 = 0x1000) ∧
    (∃ s : State, s.i.toNat + 2 = 0x1000) ∧ ∃ (x : Reg) (s : State), s.i.toNat + x.val = 0x1000 :=
  ⟨⟨15, startWith [] 0x0FF2, by decide⟩, ⟨startWith [] 0x0FFE, by decide⟩, 15, startWith [] 0x0FF1, by decide⟩

/-- A store, and the same memory and I under other registers. -/
theorem witness_StoreThenLoadRestoresV0ToVx : ∃ (x : Reg) (s t u : State), MemCanonical s ∧ s.i.toNat + x.val ≤ 0xFFF ∧
    exec (.store x) s = .next t ∧ u.mem = t.mem ∧ u.i = t.i ∧ u.reg 0 ≠ s.reg 0 :=
  let s := startWith [(0, 0x12), (1, 0x0A)] 0x0208
  let ⟨t, h, e⟩ := next_of_nextOf (r := exec (.store 1) s) (fun t => decide ((t.setReg 0 0x00).reg 0 ≠ s.reg 0))
    (a := true) (by decide)
  ⟨1, s, t, t.setReg 0 0x00, by unfold MemCanonical; decide, by decide, h, rfl, rfl, of_decide_eq_true e⟩

/-- The bytes behind the store are the last word of memory. -/
theorem witness_StoredBytesAreFetchedNext : ∃ (x : Reg) (s : State), MemCanonical s ∧ 1 ≤ x.val ∧ s.i = s.pc + 2 ∧
    s.i.toNat + x.val = 0xFFF :=
  ⟨1, { startWith [(0, 0x12)] 0x0FFE with pc := 0x0FFC }, by unfold MemCanonical; decide, by decide⟩

/-- A sprite of the greatest length, a pixel it covers (both wraps), and a pixel it does not. -/
theorem witness_CompositeIsPixelwiseXor : ∃ (rows : List Byte) (x y : Byte), rows.length = 15 ∧
    SpriteCovers x y rows 3 14 ∧ ¬ SpriteCovers x y rows 4 14 := by
  refine ⟨List.replicate 15 0x01, 0xFC, 0x00, by decide, ⟨14, 7, 0x01, by decide⟩, ?_⟩
  rintro ⟨r, c, row, h, hc, hb, hx, -⟩
  have hrow : row = 0x01 := by simpa using (List.mem_replicate.mp (List.mem_of_getElem? h)).2
  subst hrow
  have : c = 0 ∨ c = 1 ∨ c = 2 ∨ c = 3 ∨ c = 4 ∨ c = 5 ∨ c = 6 ∨ c = 7 := by omega
  rcases this with rfl | rfl | rfl | rfl | rfl | rfl | rfl | rfl <;> revert hb hx <;> decide

theorem witness_CompositeTwiceRestoresTheGrid : ∃ rows : List Byte, rows.length = 15 := ⟨List.replicate 15 0xFF, by decide⟩

/-- Fifteen rows that end at 0xFFF, and no row at all from an I outside memory. -/
theorem witness_DrawCompositesAndSetsVf :
    (∃ (n : Nibble) (s : State) (rows : List Byte), n.toNat = 15 ∧ s.i.toNat + n.toNat - 1 = 0xFFF ∧
      rows.length = n.toNat ∧ ∀ r : Nat, r < n.toNat → rows[r]? = some (s.readByte (s.i.toNat + r))) ∧
    ∃ (n : Nibble) (s : State) (rows : List Byte), n.toNat = 0 ∧ s.i.toNat > 0xFFF ∧ rows.length = n.toNat ∧
      ∀ r : Nat, r < n.toNat → rows[r]? = some (s.readByte (s.i.toNat + r)) :=
  ⟨⟨15, bytesAt 0xFFF [0x81] (startWith [] 0x0FF1), List.replicate 14 0x00 ++ [0x81], by decide⟩,
   0, startWith [] 0x2000, [], by decide⟩

/-- FX65 writes V0 to VX, not the register above. -/
theorem witness_RegistersWrittenAreTheTables : ∃ (ins : Instr) (s t : State) (k : Reg),
    exec ins s = .next t ∧ writesReg ins k = false :=
  ⟨.load 14, startWith [] 0x0300, _, 15, rfl, by decide⟩

theorem witness_UnnamedRegistersPlayNoPart : ∃ (ins : Instr) (k : Reg), readsReg ins k = false ∧ writesReg ins k = false :=
  ⟨.shr 1 2, 2, by decide⟩

theorem witness_OnlyIndexInstructionsWriteI : ∃ (ins : Instr) (s t : State), exec ins s = .next t ∧ t.i ≠ s.i :=
  ⟨.ldI 0x2F0, start, _, rfl, by decide⟩

/-- A slot written and SP moved by a call; SP moved by a return. -/
theorem witness_OnlyCallAndReturnTouchTheStack :
    (∃ (ins : Instr) (s t : State), exec ins s = .next t ∧ t.stack[0] ≠ s.stack[0] ∧ t.sp ≠ s.sp) ∧
    ∃ (s t : State), exec .ret s = .next t ∧ t.sp ≠ s.sp :=
  ⟨⟨.call 0x300, start, _, rfl, by decide⟩, { start with sp := 1 }, _, rfl, by decide⟩

theorem witness_OnlyClearAndDrawChangeThePixels : ∃ (ins : Instr) (s t : State), exec ins s = .next t ∧ t.px ≠ s.px :=
  ⟨.cls, { start with px := gridOf [(63, 31)] }, _, rfl, by decide⟩

/-- FX33 at its third byte and FX55 at its last. -/
theorem witness_OnlyBcdAndStoreWriteMemory :
    (∃ (s t : State), exec (.ldB 0) s = .next t ∧ t.readByte 0xFFF ≠ s.readByte 0xFFF) ∧
    ∃ (s t : State), exec (.store 15) s = .next t ∧ t.readByte 0xFFF ≠ s.readByte 0xFFF := by
  refine ⟨⟨startWith [(0, 0x09)] 0x0FFD, ?_⟩, ⟨startWith [(15, 0xEE)] 0x0FF0, ?_⟩⟩
  · obtain ⟨t, h, e⟩ := next_of_nextOf (r := exec (.ldB 0) (startWith [(0, 0x09)] 0x0FFD)) (fun t => t.readByte 0xFFF)
      (a := 0x09) (by decide)
    exact ⟨t, h, by rw [e]; decide⟩
  · obtain ⟨t, h, e⟩ := next_of_nextOf (r := exec (.store 15) (startWith [(15, 0xEE)] 0x0FF0)) (fun t => t.readByte 0xFFF)
      (a := 0xEE) (by decide)
    exact ⟨t, h, by rw [e]; decide⟩

/-- A step that completes from the last address, and one that faults. -/
theorem witness_PcAfterAStep :
    (∃ s t : State, s.status = .running ∧ step s = .next t ∧ t.status = .running ∧ t.pc = 0x1002) ∧
    ∃ s t : State, s.status = .running ∧ step s = .next t ∧ t.status ≠ .running := by
  constructor
  · obtain ⟨t, h, e⟩ := next_of_nextOf (r := step (placed 0x3000 { start with pc := 0x0FFE }))
      (fun t => (t.status, t.pc)) (a := (.running, 0x1002)) (by decide)
    exact ⟨_, t, rfl, h, congrArg Prod.fst e, congrArg Prod.snd e⟩
  · obtain ⟨t, hs, h, e⟩ := step_latches (placed 0x00EE) (.stackUnderflow 0x00EE 0x0200) rfl (by decide)
    exact ⟨_, t, hs, h, by simp [e]⟩

/-- The two self-jumps of C9 (V-C8, V-C10), and a jump that is none. -/
theorem witness_RunEndsExactlyAtASelfJump :
    (∃ s : State, s.status = .running ∧ wordAtPc s = 0x1200 ∧ s.pc = 0x0200) ∧
    (∃ s : State, s.status = .running ∧ wordAtPc s = 0xB1FE ∧ s.pc = 0x0200 ∧ s.reg 0 = 0x02) ∧
    ∃ s : State, s.status = .running ∧ wordAtPc s = 0x1202 ∧ s.pc = 0x0200 :=
  ⟨⟨placed 0x1200, by decide⟩, ⟨placed 0xB1FE (startWith [(0, 0x02)]), by decide⟩, placed 0x1202, by decide⟩

end Sys2Proof.Tests
end

section
/-!
PROOFS. The word of an instruction as a number, digit by digit (00_scope.md R9): one lemma for each format, with the fixed
digits of the pattern gathered into one number, and O3 from them.
-/

namespace Sys2Proof

/-- Format A: the fixed digit is the class. -/
theorem encodeA_toNat_of_fixed {c : Nibble} {nnn : Addr12} {fixed : Nat} (h : 0x1000 * c.toNat = fixed) :
    (encodeA c nnn).toNat = fixed + nnn.toNat := by
  rw [encodeA_toNat, h]

/-- Format XI: the fixed digit is the class. -/
theorem encodeXI_toNat_of_fixed {c : Nibble} {x : Reg} {nn : Byte} {fixed : Nat} (h : 0x1000 * c.toNat = fixed) :
    (encodeXI c x nn).toNat = fixed + 0x100 * x.val + nn.toNat := by
  rw [encodeXI_toNat, h, Nat.add_assoc]

/-- Format XK: the fixed digits are the class and the sub-selector NN. -/
theorem encodeXK_toNat_of_fixed {c : Nibble} {x : Reg} {nn : Byte} {fixed : Nat}
    (h : 0x1000 * c.toNat + nn.toNat = fixed) : (encodeXI c x nn).toNat = fixed + 0x100 * x.val := by
  rw [encodeXI_toNat, ← h, Nat.add_right_comm, Nat.add_assoc]

/-- Format XYN: the fixed digit is the class. -/
theorem encodeXYN_toNat_of_fixed {c : Nibble} {x y : Reg} {n : Nibble} {fixed : Nat} (h : 0x1000 * c.toNat = fixed) :
    (encodeXYN c x y n).toNat = fixed + 0x100 * x.val + 0x10 * y.val + n.toNat := by
  rw [encodeXYN_toNat, h, Nat.add_assoc, Nat.add_assoc]

/-- Format XY: the fixed digits are the class and the sub-selector N. -/
theorem encodeXY_toNat_of_fixed {c : Nibble} {x y : Reg} {n : Nibble} {fixed : Nat}
    (h : 0x1000 * c.toNat + n.toNat = fixed) : (encodeXYN c x y n).toNat = fixed + 0x100 * x.val + 0x10 * y.val := by
  rw [encodeXYN_toNat_of_fixed rfl, ← h]
  omega

/-- Settles O3: the instructions sorted by the format of their pattern; what is left of each is that its fixed digits make
the number the statement writes. -/
theorem encodingByHexDigits : Obligations.EncodingByHexDigits := by
  intro ins
  cases ins
  case cls | ret => rfl
  case jp | call | ldI | jpV0 => exact encodeA_toNat_of_fixed rfl
  case seImm | sneImm | ldImm | addImm | rnd => exact encodeXI_toNat_of_fixed rfl
  case seReg | sneReg | ldReg | orReg | andReg | xorReg | addReg | subReg | shr | subnReg | shl =>
    exact encodeXY_toNat_of_fixed rfl
  case drw => exact encodeXYN_toNat_of_fixed rfl
  case skp | sknp | ldVxDt | ldDtVx | ldStVx | addI | ldF | ldB | store | load => exact encodeXK_toNat_of_fixed rfl

end Sys2Proof
end

section
/-!
PROOFS. The reset state (10_state.md R23) meets the three invariants.
-/

namespace Sys2Proof.Machine

/-- R23, D12: the reset call stack is sixteen zero words. -/
@[simp] theorem reset_stackSlot (k : Fin 16) : State.reset.stack[k.val] = 0x0000 := Vector.getElem_replicate k.isLt

/-- A running machine's latch holds no record (R20), so none of another PC. -/
theorem recordAtPc_of_running {s : State} (hrun : s.status = .running) : RecordAtPc s := by
  intro f hf
  rw [hrun] at hf
  cases hf

/-- At reset PC is `PROG_BASE` and every slot is zero, both within their bounds. -/
theorem reset_pcAndStackBounded : PcAndStackBounded State.reset := by
  constructor
  · rw [reset_pc]
    decide
  · intro k
    rw [reset_stackSlot]
    decide

/-- Settles O17: reset memory is canonical, PC and the stack are within their bounds, and the latch is running. -/
theorem resetMeetsTheInvariants : Obligations.ResetMeetsTheInvariants :=
  ⟨reset_mem_wf, reset_pcAndStackBounded, recordAtPc_of_running reset_status⟩

end Sys2Proof.Machine
end

section
/-!
PROOFS. The fetch of a step (20_memory.md R33) determines the instruction it executes.
-/

namespace Sys2Proof.Machine

/-- R33, R36: where its two bytes exist, the word fetched is the one whose number is the big-endian word at PC. -/
theorem fetchWord_eq_ok_of_toNat {s : State} {w : Word} (hpc : s.pc.toNat ≤ 0xFFE) (hw : w.toNat = wordAtPc s) :
    fetchWord s = .ok w := by
  have hjoin : joinWord (s.readByte s.pc.toNat) (s.readByte (s.pc.toNat + 1)) = w :=
    BitVec.eq_of_toNat_eq ((fetched_toNat s).trans hw.symm)
  rw [fetchWord_ok hpc, hjoin]

/-- R70: what the fetched word decodes to is the fetched instruction. -/
theorem fetchInstr_eq_ok_of_decode {s : State} {w : Word} {ins : Instr} (hfetch : fetchWord s = .ok w)
    (hdec : decode w = .ok ins) : fetchInstr s = .ok ins := by
  simp [fetchInstr, hfetch, hdec]

/-- Settles O7: the number of the word at PC fixes the word fetched, and so the instruction a running core executes. -/
theorem stepRunsTheDecodedInstruction : Obligations.StepRunsTheDecodedInstruction := by
  intro s w ins hrun hpc hw hdec
  have hfetch : fetchWord s = .ok w := fetchWord_eq_ok_of_toNat hpc hw
  exact step_exec hrun (fetchInstr_eq_ok_of_decode hfetch hdec)

end Sys2Proof.Machine
end

section
/-!
PROOFS. The skips of 41_control_flow.md R85 to R88: what the condition makes of PC, and the frame of a skip.
-/

namespace Sys2Proof.Machine

/-- The frame of a skip (R75), whatever its condition. -/
theorem keepsAllButPc_skipIf (s : State) (c : Bool) : KeepsAllButPc s (s.skipIf c) :=
  ⟨skipIf_reg s c, skipIf_i s c, skipIf_sp s c, skipIf_stack s c, skipIf_px s c, skipIf_status s c, skipIf_readByte s c⟩

/-- R75, R89: PC after a skip whose condition decides `p`. -/
theorem skipIf_pc_of_iff (s : State) {c : Bool} {p : Prop} [Decidable p] (hc : c = true ↔ p) :
    (s.skipIf c).pc = if p then s.pc + 4 else s.pc + 2 := by
  by_cases h : p
  · rw [if_pos h, skipIf_pc, if_pos (hc.2 h)]
  · rw [if_neg h, skipIf_pc, if_neg (mt hc.1 h)]

/-- R85, R87: a skip on equality adds 4 where the two bytes are one number, else 2. -/
theorem skipIf_beq_pc (s : State) (a b : Byte) :
    (s.skipIf (a == b)).pc = if a.toNat = b.toNat then s.pc + 4 else s.pc + 2 :=
  skipIf_pc_of_iff s (beq_iff_eq.trans BitVec.toNat_inj.symm)

/-- R86, R88: a skip on difference adds 2 where the two bytes are one number, else 4. -/
theorem skipIf_bne_pc (s : State) (a b : Byte) :
    (s.skipIf (a != b)).pc = if a.toNat = b.toNat then s.pc + 2 else s.pc + 4 := by
  have hne : (a != b) = true ↔ ¬ a.toNat = b.toNat := bne_iff_ne.trans (not_congr BitVec.toNat_inj.symm)
  rw [skipIf_pc_of_iff s hne, ite_not]

/-- Settles O24: each of the four is a skip on the equality or the difference of its two bytes. -/
theorem skipsTestTheirCondition : Obligations.SkipsTestTheirCondition := by
  intro x y nn s
  refine ⟨?seImm, ?sneImm, ?seReg, ?sneReg⟩
  case seImm => exact ⟨s.skipIf (s.reg x == nn), rfl, skipIf_beq_pc s _ _, keepsAllButPc_skipIf s _⟩
  case sneImm => exact ⟨s.skipIf (s.reg x != nn), rfl, skipIf_bne_pc s _ _, keepsAllButPc_skipIf s _⟩
  case seReg => exact ⟨s.skipIf (s.reg x == s.reg y), rfl, skipIf_beq_pc s _ _, keepsAllButPc_skipIf s _⟩
  case sneReg => exact ⟨s.skipIf (s.reg x != s.reg y), rfl, skipIf_bne_pc s _ _, keepsAllButPc_skipIf s _⟩

end Sys2Proof.Machine
end

section
/-!
PROOFS. The loads, 7XNN and the logic operations of 42_alu.md R92 to R97: each writes one byte to VX and goes on to the next
instruction, so they share one frame and differ in the byte alone.
-/

namespace Sys2Proof.Machine

/-- R92 to R97, R75: writing VX and going on to the next instruction keeps every other register, VF too unless it is VX, adds 2
to PC and keeps the rest. -/
theorem setReg_nextInstr_frame (s : State) (x : Reg) (b : Byte) :
    (∀ k, k ≠ x → (s.setReg x b).nextInstr.reg k = s.reg k) ∧ (s.setReg x b).nextInstr.pc = s.pc + 2 ∧
      KeepsAllButRegsAndPc s (s.setReg x b).nextInstr :=
  ⟨fun _ hk => reg_setReg_ne s b hk, rfl, rfl, rfl, rfl, rfl, rfl, fun _ => rfl⟩

/-- Settles O29: each of the six is a write of VX and the next instruction; the byte written is an immediate, a register, or
the sum, OR, AND or XOR of two bytes. -/
theorem loadsAndLogicWriteVxAlone : Obligations.LoadsAndLogicWriteVxAlone := by
  intro x y nn s
  refine ⟨⟨_, rfl, ?ldImm, setReg_nextInstr_frame s x nn⟩,
    ⟨_, rfl, ?addImm, setReg_nextInstr_frame s x (s.reg x + nn)⟩,
    ⟨_, rfl, ?ldReg, setReg_nextInstr_frame s x (s.reg y)⟩,
    ⟨_, rfl, ?orReg, setReg_nextInstr_frame s x (s.reg x ||| s.reg y)⟩,
    ⟨_, rfl, ?andReg, setReg_nextInstr_frame s x (s.reg x &&& s.reg y)⟩,
    ⟨_, rfl, ?xorReg, setReg_nextInstr_frame s x (s.reg x ^^^ s.reg y)⟩⟩ <;>
    rw [nextInstr_reg, reg_setReg_same]
  case addImm => exact BitVec.toNat_add _ _
  case orReg => exact fun b => BitVec.getLsbD_or
  case andReg => exact fun b => BitVec.getLsbD_and
  case xorReg => exact fun b => BitVec.getLsbD_xor

end Sys2Proof.Machine
end

section
/-!
PROOFS. ANNN of 43_index_memory.md R111: the field NNN, zero-extended, goes to I, and the core goes on to the next instruction.
-/

namespace Sys2Proof.Machine

/-- `zext_16` (R8) keeps the number of whatever fits in 16 bits. -/
theorem zext16_toNat {n : Nat} (hn : n ≤ 16) (v : BitVec n) : (zext16 v).toNat = v.toNat :=
  BitVec.toNat_setWidth_of_le hn

/-- R13, R75: writing I and going on to the next instruction adds 2 to PC and keeps every other field. -/
theorem setI_nextInstr_frame (s : State) (a : Word) :
    let t := { s with i := a }.nextInstr
    t.pc = s.pc + 2 ∧ (∀ k, t.reg k = s.reg k) ∧ t.sp = s.sp ∧ t.stack = s.stack ∧ t.px = s.px ∧ t.status = s.status ∧
      ∀ b, t.readByte b = s.readByte b :=
  ⟨rfl, fun _ => rfl, rfl, rfl, rfl, rfl, fun _ => rfl⟩

/-- Settles O34: ANNN is a write of I, and a 12-bit field keeps its number when zero-extended. -/
theorem loadIndexSetsI : Obligations.LoadIndexSetsI := by
  intro nnn s
  exact ⟨_, rfl, zext16_toNat (by decide) nnn, setI_nextInstr_frame s (zext16 nnn)⟩

end Sys2Proof.Machine
end

section
/-!
PROOFS. The compositor's loop (44_display.md R125) as an XOR with a set of pixels. What a part of the loop does is to toggle
each pixel of its set once (R123) and to report whether one of them was set (R124); two such parts on disjoint sets, run one
after the other, toggle the union. No two bits of a sprite have the same place, because 8 ≤ 64 and 15 ≤ 32 (R123).
-/

namespace Sys2Proof.Machine

/-- From `a` to `b` every pixel of `S` is inverted, every other pixel is kept (R123), and the collision bit gains whether some
pixel of `S` was set in `a` (R124). -/
structure Toggles (S : Set (Fin 64 × Fin 32)) (a b : Grid × Bool) : Prop where
  inverts : ∀ p ∈ S, pixel b.1 p.1 p.2 = !pixel a.1 p.1 p.2
  keeps : ∀ p ∉ S, pixel b.1 p.1 p.2 = pixel a.1 p.1 p.2
  collides : b.2 = true ↔ a.2 = true ∨ ∃ p ∈ S, pixel a.1 p.1 p.2 = true

/-- To do nothing is to toggle no pixel. -/
theorem toggles_empty (a : Grid × Bool) : Toggles ∅ a a where
  inverts _ hp := absurd hp (Set.notMem_empty _)
  keeps _ _ := rfl
  collides := by simp

/-- Disjoint sets toggled one after the other are their union toggled: the second set is still as it was before the first. -/
theorem Toggles.union {S T : Set (Fin 64 × Fin 32)} {a b c : Grid × Bool} (hS : Toggles S a b) (hT : Toggles T b c)
    (hST : Disjoint S T) : Toggles (S ∪ T) a c where
  inverts p hp := by
    rcases hp with hp | hp
    · rw [hT.keeps p (Set.disjoint_left.mp hST hp), hS.inverts p hp]
    · rw [hT.inverts p hp, hS.keeps p (Set.disjoint_right.mp hST hp)]
  keeps p hp := by
    obtain ⟨hpS, hpT⟩ := not_or.mp hp
    rw [hT.keeps p hpT, hS.keeps p hpS]
  collides := by
    have untouched : (∃ p ∈ T, pixel b.1 p.1 p.2 = true) ↔ ∃ p ∈ T, pixel a.1 p.1 p.2 = true :=
      exists_congr fun p => and_congr_right fun hp => by rw [hS.keeps p (Set.disjoint_right.mp hST hp)]
    rw [hT.collides, hS.collides, untouched, or_assoc]
    simp only [Set.mem_union, or_and_right, exists_or]

/-! ### The pixels of a bit, of a row and of a sprite -/

/-- The place of column `c` of sprite row `r` where its bit is set, else no pixel (R122). -/
def bitPixels (x y row : Byte) (r c : Nat) : Set (Fin 64 × Fin 32) :=
  {p | spriteBit row c = true ∧ p = (pixelCol x c, pixelRow y r)}

/-- The places of the set bits of sprite row `r`. -/
def rowPixels (x y row : Byte) (r : Nat) : Set (Fin 64 × Fin 32) := ⋃ c < 8, bitPixels x y row r c

/-- The places of the set bits of the rows, the first of which is sprite row `r`. -/
def spritePixels (x y : Byte) (r : Nat) (rows : List Byte) : Set (Fin 64 × Fin 32) :=
  {p | ∃ (k : Nat) (row : Byte), rows[k]? = some row ∧ p ∈ rowPixels x y row (r + k)}

theorem mem_bitPixels {x y row : Byte} {r c : Nat} {p : Fin 64 × Fin 32} :
    p ∈ bitPixels x y row r c ↔ spriteBit row c = true ∧ p.1 = pixelCol x c ∧ p.2 = pixelRow y r :=
  and_congr_right fun _ => Prod.ext_iff

theorem mem_rowPixels {x y row : Byte} {r : Nat} {p : Fin 64 × Fin 32} :
    p ∈ rowPixels x y row r ↔
      ∃ c < 8, spriteBit row c = true ∧ p.1 = pixelCol x c ∧ p.2 = pixelRow y r := by
  simp only [rowPixels, Set.mem_iUnion₂, mem_bitPixels, exists_prop]

theorem spritePixels_nil (x y : Byte) (r : Nat) : spritePixels x y r [] = ∅ := by
  simp [spritePixels]

/-- A sprite's pixels are those of its first row and those of the rest. -/
theorem spritePixels_cons (x y row : Byte) (r : Nat) (rows : List Byte) :
    spritePixels x y r (row :: rows) = rowPixels x y row r ∪ spritePixels x y (r + 1) rows := by
  ext p
  constructor
  · rintro ⟨k, row', hk, hp⟩
    cases k with
    | zero =>
      obtain rfl : row = row' := Option.some.inj hk
      exact .inl hp
    | succ k => exact .inr ⟨k, row', hk, by rwa [Nat.add_assoc, Nat.add_comm 1 k]⟩
  · rintro (hp | ⟨k, row', hk, hp⟩)
    · exact ⟨0, row, rfl, hp⟩
    · exact ⟨k + 1, row', hk, by rwa [Nat.add_assoc, Nat.add_comm 1 k] at hp⟩

/-- The pixels of a sprite are those the statements say it covers (R122). -/
theorem mem_spritePixels_iff_spriteCovers {x y : Byte} {rows : List Byte} {p : Fin 64 × Fin 32} :
    p ∈ spritePixels x y 0 rows ↔ SpriteCovers x y rows p.1 p.2 := by
  simp only [spritePixels, Set.mem_ofPred_eq, mem_rowPixels, SpriteCovers, Nat.zero_add]
  constructor
  · rintro ⟨r, row, hrow, c, hc, hbit, hx, hy⟩
    exact ⟨r, c, row, hrow, hc, hbit, congrArg Fin.val hx, congrArg Fin.val hy⟩
  · rintro ⟨r, c, row, hrow, hc, hbit, hx, hy⟩
    exact ⟨r, row, hrow, c, hc, hbit, Fin.ext hx, Fin.ext hy⟩

/-! ### No two bits have the same place -/

/-- Columns less than 64 apart are distinct (R123). -/
theorem pixelCol_ne {x : Byte} {c d : Nat} (hcd : c < d) (hd : d < c + 64) : pixelCol x c ≠ pixelCol x d := by
  intro h
  have hmod : (x.toNat + c) % 64 = (x.toNat + d) % 64 := congrArg Fin.val h
  omega

/-- Rows less than 32 apart are distinct (R123). -/
theorem pixelRow_ne {y : Byte} {r q : Nat} (hrq : r < q) (hq : q < r + 32) : pixelRow y r ≠ pixelRow y q := by
  intro h
  have hmod : (y.toNat + r) % 32 = (y.toNat + q) % 32 := congrArg Fin.val h
  omega

/-- A column's bit has its place at none of the columns before it. -/
theorem disjoint_iUnion_bitPixels (x y row : Byte) (r : Nat) {n : Nat} (hn : n < 8) :
    Disjoint (⋃ c < n, bitPixels x y row r c) (bitPixels x y row r n) := by
  rw [Set.disjoint_left]
  intro p hp hp'
  obtain ⟨c, hc, hpc⟩ := Set.mem_iUnion₂.mp hp
  obtain ⟨-, hx, -⟩ := mem_bitPixels.mp hpc
  obtain ⟨-, hx', -⟩ := mem_bitPixels.mp hp'
  exact pixelCol_ne hc (by omega) (hx.symm.trans hx')

/-- A row's bits have their places apart from those of the rows after it. -/
theorem disjoint_rowPixels_spritePixels (x y row : Byte) (r : Nat) {rows : List Byte} (hlen : rows.length < 32) :
    Disjoint (rowPixels x y row r) (spritePixels x y (r + 1) rows) := by
  rw [Set.disjoint_left]
  rintro p hp ⟨k, row', hk, hp'⟩
  obtain ⟨_, _, _, _, hy⟩ := mem_rowPixels.mp hp
  obtain ⟨_, _, _, _, hy'⟩ := mem_rowPixels.mp hp'
  obtain ⟨hk, -⟩ := List.getElem?_eq_some_iff.mp hk
  exact pixelRow_ne (by omega) (by omega) (hy.symm.trans hy')

/-! ### The loop toggles the pixels of the sprite -/

/-- One turn of the inner loop toggles the place of its bit. -/
theorem compositeBit_toggles (x y row : Byte) (r c : Nat) (acc : Grid × Bool) :
    Toggles (bitPixels x y row r c) acc (compositeBit x y row r acc c) := by
  cases hbit : spriteBit row c with
  | false =>
    have hnone : bitPixels x y row r c = ∅ := by simp [bitPixels, hbit]
    rw [hnone, compositeBit_clear acc hbit]
    exact toggles_empty acc
  | true =>
    have hone : bitPixels x y row r c = {(pixelCol x c, pixelRow y r)} := by simp [bitPixels, hbit]
    rw [hone]
    refine ⟨fun p hp => ?inverts, fun p hp => ?keeps, ?collides⟩
    case inverts => rw [pixel_compositeBit_set acc hbit, if_pos (Prod.ext_iff.mp hp)]
    case keeps => rw [pixel_compositeBit_set acc hbit, if_neg (mt Prod.ext_iff.mpr hp)]
    case collides => simp [collision_compositeBit_set acc hbit]

/-- The first `n` turns of the inner loop toggle the places of the first `n` bits. -/
theorem foldl_compositeBit_toggles (x y row : Byte) (r : Nat) (acc : Grid × Bool) {n : Nat} (hn : n ≤ 8) :
    Toggles (⋃ c < n, bitPixels x y row r c) acc ((List.range n).foldl (compositeBit x y row r) acc) := by
  induction n with
  | zero => simpa using toggles_empty acc
  | succ n ih =>
    rw [Set.biUnion_lt_succ, List.range_succ, List.foldl_concat]
    exact (ih (by omega)).union (compositeBit_toggles ..) (disjoint_iUnion_bitPixels x y row r hn)

/-- The inner loop toggles the places of its row's set bits. -/
theorem compositeRow_toggles (x y row : Byte) (r : Nat) (acc : Grid × Bool) :
    Toggles (rowPixels x y row r) acc (compositeRow x y row r acc) :=
  foldl_compositeBit_toggles x y row r acc (le_refl 8)

/-- The outer loop toggles the places of the set bits of all its rows, where these are no more than the grid's. -/
theorem compositeFrom_toggles (x y : Byte) (r : Nat) (rows : List Byte) (acc : Grid × Bool) (hlen : rows.length ≤ 32) :
    Toggles (spritePixels x y r rows) acc (compositeFrom x y r rows acc) := by
  induction rows generalizing r acc with
  | nil =>
    rw [spritePixels_nil]
    exact toggles_empty acc
  | cons row rows ih =>
    have hlt : rows.length < 32 := hlen
    rw [spritePixels_cons]
    exact (compositeRow_toggles x y row r acc).union (ih (r + 1) _ hlt.le) (disjoint_rowPixels_spritePixels x y row r hlt)

/-- Settles O43: the loop, from a clear collision bit, toggles the sprite's pixels, and these are the ones it covers. -/
theorem compositeIsPixelwiseXor : Obligations.CompositeIsPixelwiseXor := by
  intro g x y rows hlen
  obtain ⟨hinv, hkeep, hcol⟩ := compositeFrom_toggles x y 0 rows (g, false) (by omega)
  simp only [mem_spritePixels_iff_spriteCovers, Prod.forall, Prod.exists] at hinv hkeep hcol
  exact ⟨hinv, hkeep, by simpa [composite] using hcol⟩

end Sys2Proof.Machine
end

section
/-!
PROOFS. The host's load of 70_reset_and_hazards.md R171 to R173: what a read of an image's memory sees, when `Reset(rom)`
answers a machine, and the first word that machine fetches. The memory of an image lists no byte 0x00 (log entry 8), so a read
of one finds no entry: every entry behind it has a higher address.
-/

namespace Sys2Proof.Machine

/-- R171: the first byte of an image matters at its own address only. -/
theorem read_imageAt_cons_ne {a a' : Nat} (b : Byte) (bs : List Byte) (h : a' ≠ a) :
    (imageAt a (b :: bs)).read a' = (imageAt (a + 1) bs).read a' := by
  rw [imageAt]
  split
  · rfl
  · rw [Memory.read_cons, if_neg h.symm]

/-- R23: below its first address the memory of an image is zero. -/
theorem read_imageAt_of_lt (bs : List Byte) {a a' : Nat} (h : a' < a) : (imageAt a bs).read a' = 0 := by
  induction bs generalizing a with
  | nil => rfl
  | cons b bs ih => rw [read_imageAt_cons_ne b bs h.ne, ih (by omega)]

/-- R171: the first byte of an image stands at the first address, a byte 0x00 by having no entry there. -/
theorem read_imageAt_cons_same (a : Nat) (b : Byte) (bs : List Byte) : (imageAt a (b :: bs)).read a = b := by
  rw [imageAt]
  split
  · next hb => exact (read_imageAt_of_lt bs a.lt_succ_self).trans hb.symm
  · rw [Memory.read_cons, if_pos rfl]

/-- R171, R23: at offset `k` an image's memory holds the image's byte `k`, and zero where the image has none. -/
theorem read_imageAt_add (a : Nat) (bs : List Byte) (k : Nat) : (imageAt a bs).read (a + k) = bs[k]?.getD 0 := by
  induction bs generalizing a k with
  | nil => rfl
  | cons b bs ih =>
    cases k with
    | zero => exact read_imageAt_cons_same a b bs
    | succ k => rw [read_imageAt_cons_ne b bs (by omega), ← Nat.add_assoc, Nat.add_right_comm, ih, List.getElem?_cons_succ]

/-- R171: byte `k` of an image at `a` is read at `a + k`. -/
theorem read_imageAt_of_getElem? (a : Nat) {bs : List Byte} {k : Nat} {b : Byte} (h : bs[k]? = some b) :
    (imageAt a bs).read (a + k) = b := by
  rw [read_imageAt_add, h, Option.getD_some]

/-- R23: outside the addresses of its bytes the memory of an image is zero. -/
theorem read_imageAt_out {a a' : Nat} {bs : List Byte} (h : a' < a ∨ a + bs.length ≤ a') : (imageAt a bs).read a' = 0 := by
  rcases h with hbelow | habove
  · exact read_imageAt_of_lt bs hbelow
  · obtain ⟨k, rfl⟩ := Nat.exists_eq_add_of_le (Nat.le_of_add_right_le habove)
    rw [read_imageAt_add, List.getElem?_eq_none (by omega), Option.getD_none]

/-- R172, R173: an image of at most 3583 bytes is accepted; the machine has the reset values and the image's memory. -/
theorem construct_eq_ok (n : Nat) {rom : List Byte} (h : rom.length ≤ 3583) :
    construct n rom = .ok { State.boot n with mem := imageAt 0x200 rom } :=
  if_pos (decide_eq_true h)

/-- R172: a longer image is refused. -/
theorem construct_eq_error (n : Nat) {rom : List Byte} (h : rom.length > 3583) :
    construct n rom = .error (.romTooLarge rom.length) :=
  if_neg (mt of_decide_eq_true (Nat.not_le.mpr h))

/-- Settles O19: a read of the machine's memory is a read of the image's, and the first fetch reads offsets 0 and 1 of it. -/
theorem loadPlacesTheImage : Obligations.LoadPlacesTheImage := by
  intro n rom
  refine ⟨fun hfit => ⟨_, construct_eq_ok n hfit, ?canonical, fun k b => read_imageAt_of_getElem? 0x200,
    fun a => read_imageAt_out, ?firstWord⟩, construct_eq_error n⟩
  case canonical =>
    have hend : 0x200 + rom.length ≤ Config.memSize := (Nat.add_le_add_left hfit 0x200).trans (by decide)
    exact Memory.wfFrom_mono (Nat.zero_le 0x200) (imageAt_wfFrom rom 0x200 hend)
  case firstWord =>
    intro b0 b1 h0 h1
    have hhigh : (imageAt 0x200 rom).read 0x200 = b0 := read_imageAt_of_getElem? 0x200 h0
    have hlow : (imageAt 0x200 rom).read (0x200 + 1) = b1 := read_imageAt_of_getElem? 0x200 h1
    refine ⟨joinWord b0 b1, ?fetch, joinWord_toNat b0 b1⟩
    rw [← hhigh, ← hlow]
    exact fetchWord_ok (show (0x200 : Word).toNat ≤ 0xFFE by decide)

end Sys2Proof.Machine
end

section
/-!
PROOFS. Decoder and encoder are inverse (30_encoding.md R51 to R57). Encoding a word's own fields gives the word back, one
lemma for each format; the rest is to read the branches of the selection table.
-/

namespace Sys2Proof

/-! ### The word from its fields -/

/-- Format A: the class and NNN are the whole word. -/
theorem encodeA_fields {w : Word} {c : Nibble} (hc : (fieldClass w).toNat = c.toNat) : encodeA c (fieldNNN w) = w := by
  apply BitVec.eq_of_toNat_eq
  rw [encodeA_toNat, ← hc, fieldClass_toNat, fieldNNN_toNat]
  omega

/-- Format XI: the class, X and NN are the whole word. -/
theorem encodeXI_fields {w : Word} {c : Nibble} (hc : (fieldClass w).toNat = c.toNat) :
    encodeXI c (fieldX w) (fieldNN w) = w := by
  apply BitVec.eq_of_toNat_eq
  rw [encodeXI_toNat, ← hc, fieldClass_toNat, fieldX_val, fieldNN_toNat]
  omega

/-- Format XYN: the class, X, Y and N are the whole word. -/
theorem encodeXYN_fields {w : Word} {c : Nibble} (hc : (fieldClass w).toNat = c.toNat) :
    encodeXYN c (fieldX w) (fieldY w) (fieldN w) = w := by
  apply BitVec.eq_of_toNat_eq
  rw [encodeXYN_toNat, ← hc, fieldClass_toNat, fieldX_val, fieldY_val, fieldN_toNat]
  omega

/-- Format XK: the sub-selector stands for NN. -/
theorem encodeXK_fields {w : Word} {c : Nibble} {nn : Byte} (hc : (fieldClass w).toNat = c.toNat)
    (hnn : (fieldNN w).toNat = nn.toNat) : encodeXI c (fieldX w) nn = w := by
  rw [← BitVec.eq_of_toNat_eq hnn, encodeXI_fields hc]

/-- Format XY: the sub-selector stands for N. -/
theorem encodeXY_fields {w : Word} {c n : Nibble} (hc : (fieldClass w).toNat = c.toNat)
    (hn : (fieldN w).toNat = n.toNat) : encodeXYN c (fieldX w) (fieldY w) n = w := by
  rw [← BitVec.eq_of_toNat_eq hn, encodeXYN_fields hc]

/-! ### The two round trips -/

/-- Settles O1: the class field of the encoded word chooses the branch, the sub-selector field the row, and the operand
fields are the operands. -/
theorem decodeOfEncodeIsIdentity : Obligations.DecodeOfEncodeIsIdentity := by
  intro ins
  cases ins
  case cls | ret => rfl
  case jp | call | ldI | jpV0 => simp [encode, decode, fields_encodeA]
  case seImm | sneImm | ldImm | addImm | rnd => simp [encode, decode, fields_encodeXI]
  case seReg => simp [encode, decode, decodeClass5, fields_encodeXYN]
  case sneReg => simp [encode, decode, decodeClass9, fields_encodeXYN]
  case ldReg | orReg | andReg | xorReg | addReg | subReg | shr | subnReg | shl =>
    simp [encode, decode, decodeClass8, fields_encodeXYN]
  case drw => simp [encode, decode, fields_encodeXYN]
  case skp | sknp => simp [encode, decode, decodeClassE, fields_encodeXI]
  case ldVxDt | ldDtVx | ldStVx | addI | ldF | ldB | store | load => simp [encode, decode, decodeClassF, fields_encodeXI]

/-- Class 0x0 (R55): the word is 0x00E0 or 0x00EE. -/
theorem encode_of_decodeClass0 {w : Word} {ins : Instr} (hc : (fieldClass w).toNat = 0x0) (h : decodeClass0 w = .ok ins) :
    encode ins = w := by
  have whole : ∀ nnn : Addr12, (fieldNNN w).toNat = nnn.toNat → encodeA 0x0 nnn = w := fun nnn hnnn => by
    rw [← BitVec.eq_of_toNat_eq hnnn, encodeA_fields hc]
  unfold decodeClass0 at h
  split at h <;> cases h
  case h_1 hsel => exact whole 0x0E0 hsel
  case h_2 hsel => exact whole 0x0EE hsel

/-- Class 0x5 (R55). -/
theorem encode_of_decodeClass5 {w : Word} {ins : Instr} (hc : (fieldClass w).toNat = 0x5) (h : decodeClass5 w = .ok ins) :
    encode ins = w := by
  unfold decodeClass5 at h
  split at h <;> cases h
  case h_1 hsel => exact encodeXY_fields hc hsel

/-- Class 0x8 (R55, the shifts' field Y as R57 says). -/
theorem encode_of_decodeClass8 {w : Word} {ins : Instr} (hc : (fieldClass w).toNat = 0x8) (h : decodeClass8 w = .ok ins) :
    encode ins = w := by
  unfold decodeClass8 at h
  split at h <;> cases h <;> next hsel => exact encodeXY_fields hc hsel

/-- Class 0x9 (R55). -/
theorem encode_of_decodeClass9 {w : Word} {ins : Instr} (hc : (fieldClass w).toNat = 0x9) (h : decodeClass9 w = .ok ins) :
    encode ins = w := by
  unfold decodeClass9 at h
  split at h <;> cases h
  case h_1 hsel => exact encodeXY_fields hc hsel

/-- Class 0xE (R55). -/
theorem encode_of_decodeClassE {w : Word} {ins : Instr} (hc : (fieldClass w).toNat = 0xE) (h : decodeClassE w = .ok ins) :
    encode ins = w := by
  unfold decodeClassE at h
  split at h <;> cases h <;> next hsel => exact encodeXK_fields hc hsel

/-- Class 0xF (R55). -/
theorem encode_of_decodeClassF {w : Word} {ins : Instr} (hc : (fieldClass w).toNat = 0xF) (h : decodeClassF w = .ok ins) :
    encode ins = w := by
  unfold decodeClassF at h
  split at h <;> cases h <;> next hsel => exact encodeXK_fields hc hsel

/-- Settles O2: a class without sub-selector keeps all its fields as operands; a class with one is a lemma above. -/
theorem encodeOfDecodeIsIdentity : Obligations.EncodeOfDecodeIsIdentity := by
  intro w ins h
  unfold decode at h
  split at h
  case h_1 hc => exact encode_of_decodeClass0 hc h
  case h_6 hc => exact encode_of_decodeClass5 hc h
  case h_9 hc => exact encode_of_decodeClass8 hc h
  case h_10 hc => exact encode_of_decodeClass9 hc h
  case h_15 hc => exact encode_of_decodeClassE hc h
  case h_16 =>
    have hlt := (fieldClass w).isLt
    simp only [imp_false] at *
    have hc : (fieldClass w).toNat = 0xF := by omega
    exact encode_of_decodeClassF hc h
  all_goals cases h
  case h_2 hc | h_3 hc | h_11 hc | h_12 hc => exact encodeA_fields hc
  case h_4 hc | h_5 hc | h_7 hc | h_8 hc | h_13 hc => exact encodeXI_fields hc
  case h_14 hc => exact encodeXYN_fields hc

end Sys2Proof
end

section
/-!
PROOFS. The selection table of 30_encoding.md R55 and the opcode map of R56. What a word decodes by is its class and its
sub-selector, and a row of the map compares just these: under each of the map's four masks the masked word is the number of the
fields the mask keeps.
-/

namespace Sys2Proof.Machine

/-! ### Which words decode -/

theorem decodeClass0_ok_iff (w : Word) :
    (∃ ins, decodeClass0 w = .ok ins) ↔ (fieldNNN w).toNat = 0x0E0 ∨ (fieldNNN w).toNat = 0x0EE := by
  unfold decodeClass0
  split <;> simp_all

theorem decodeClass5_ok_iff (w : Word) : (∃ ins, decodeClass5 w = .ok ins) ↔ (fieldN w).toNat = 0x0 := by
  unfold decodeClass5
  split <;> simp_all

theorem decodeClass8_ok_iff (w : Word) :
    (∃ ins, decodeClass8 w = .ok ins) ↔ (fieldN w).toNat ∈ [0x0, 0x1, 0x2, 0x3, 0x4, 0x5, 0x6, 0x7, 0xE] := by
  unfold decodeClass8
  split <;> simp_all

theorem decodeClass9_ok_iff (w : Word) : (∃ ins, decodeClass9 w = .ok ins) ↔ (fieldN w).toNat = 0x0 := by
  unfold decodeClass9
  split <;> simp_all

theorem decodeClassE_ok_iff (w : Word) : (∃ ins, decodeClassE w = .ok ins) ↔ (fieldNN w).toNat ∈ [0x9E, 0xA1] := by
  unfold decodeClassE
  split <;> simp_all

theorem decodeClassF_ok_iff (w : Word) :
    (∃ ins, decodeClassF w = .ok ins) ↔
      (fieldNN w).toNat ∈ [0x07, 0x15, 0x18, 0x1E, 0x29, 0x33, 0x55, 0x65] := by
  unfold decodeClassF
  split <;> simp_all

/-- R55: the words that decode are those the selection table selects. -/
theorem decode_ok_iff_selectedByClass (w : Word) : (∃ ins, decode w = .ok ins) ↔ selectedByClass w := by
  rw [selectedByClass, ← fieldClass_toNat, ← fieldN_toNat, ← fieldNN_toNat, ← fieldNNN_toNat, selectedByFields]
  unfold decode
  split
  case h_1 hc => simp [hc, decodeClass0_ok_iff]
  case h_6 hc => simp [hc, decodeClass5_ok_iff]
  case h_9 hc => simp [hc, decodeClass8_ok_iff]
  case h_10 hc => simp [hc, decodeClass9_ok_iff]
  case h_15 hc => simp [hc, decodeClassE_ok_iff]
  case h_16 =>
    have hlt := (fieldClass w).isLt
    simp only [imp_false] at *
    have hc : (fieldClass w).toNat = 0xF := by omega
    simp [hc, decodeClassF_ok_iff]
  case h_2 hc | h_3 hc | h_4 hc | h_5 hc | h_7 hc | h_8 hc | h_11 hc | h_12 hc | h_13 hc | h_14 hc => simp [hc]

/-- R59: a word that is refused is one that decodes to nothing. -/
theorem decode_refuses_iff (w : Word) : decode w = .error (.undefinedOpcode w) ↔ ¬ ∃ ins, decode w = .ok ins := by
  cases h : decode w with
  | ok ins => simp
  | error e => simp [decode_error h]

/-- Settles O4: a word decodes exactly where the table selects it, and what does not decode is refused. -/
theorem decodeSelectsByClassAndSelector : Obligations.DecodeSelectsByClassAndSelector := by
  intro w
  rw [decode_refuses_iff, decode_ok_iff_selectedByClass]
  exact ⟨id, id⟩

/-! ### The rows of the opcode map -/

/-- R56: the mask 0xF000 keeps the class. -/
theorem and_F000_toNat (w : Word) : (w &&& 0xF000).toNat = 0x1000 * (w.toNat / 0x1000) := by
  rw [← encodeA_fields (w := w) rfl, Laws.mask_encodeA, encodeA_toNat, encodeA_fields rfl, fieldClass_toNat]
  rfl

/-- R56: the mask 0xF0FF keeps the class and NN. -/
theorem and_F0FF_toNat (w : Word) : (w &&& 0xF0FF).toNat = 0x1000 * (w.toNat / 0x1000) + w.toNat % 0x100 := by
  rw [← encodeXI_fields (w := w) rfl, Laws.mask_encodeXK, encodeXI_toNat, encodeXI_fields rfl, fieldClass_toNat,
    fieldNN_toNat]
  simp

/-- R56: the mask 0xF00F keeps the class and N. -/
theorem and_F00F_toNat (w : Word) : (w &&& 0xF00F).toNat = 0x1000 * (w.toNat / 0x1000) + w.toNat % 0x10 := by
  rw [← encodeXYN_fields (w := w) rfl, Laws.mask_encodeXY, encodeXYN_toNat, encodeXYN_fields rfl, fieldClass_toNat,
    fieldN_toNat]
  simp

/-- R56: the mask 0xFFFF keeps all of the word. -/
theorem and_FFFF_toNat (w : Word) : (w &&& 0xFFFF).toNat = w.toNat := congrArg BitVec.toNat (BitVec.and_allOnes (x := w))

/-- The row compares the class and the sub-selector that R55 asks for in that class. -/
abbrev comparesSelector (r : Row) : Prop :=
  (r.mask = 0xF000 ∧ r.pattern.toNat / 0x1000 ∈ [0x1, 0x2, 0x3, 0x4, 0x6, 0x7, 0xA, 0xB, 0xC, 0xD]) ∨
  (r.mask = 0xF00F ∧ r.pattern.toNat / 0x1000 ∈ [0x5, 0x8, 0x9]) ∨
  (r.mask = 0xF0FF ∧ r.pattern.toNat / 0x1000 ∈ [0xE, 0xF]) ∨ r.mask = 0xFFFF

/-- R55, R56: every row compares its class's sub-selector, and its pattern is selected by the table of R55. -/
theorem opcodeTable_comparesSelector : ∀ r ∈ opcodeTable, comparesSelector r ∧ selectedByClass r.pattern := by decide +kernel

/-- R55: in classes 0x5, 0x8 and 0x9 the sub-selector is N. -/
theorem selectedByFields_iff_of_n {c n nn nn' nnn nnn' : Nat} (hc : c ∈ [0x5, 0x8, 0x9]) :
    selectedByFields c n nn nnn ↔ selectedByFields c n nn' nnn' := by
  fin_cases hc <;> simp [selectedByFields]

/-- R55: in classes 0xE and 0xF the sub-selector is NN. -/
theorem selectedByFields_iff_of_nn {c n n' nn nnn nnn' : Nat} (hc : c ∈ [0xE, 0xF]) :
    selectedByFields c n nn nnn ↔ selectedByFields c n' nn nnn' := by
  fin_cases hc <;> simp [selectedByFields]

/-- R55, R56: where a row compares its class's sub-selector, a word it selects is selected by the table of R55 as its pattern
is. -/
theorem selectedByClass_of_selects {r : Row} {w : Word} (hcmp : comparesSelector r) (hp : selectedByClass r.pattern)
    (hsel : r.selects w = true) : selectedByClass w := by
  have hw : (w &&& r.mask).toNat = r.pattern.toNat := congrArg BitVec.toNat (beq_iff_eq.1 hsel)
  rcases hcmp with ⟨hm, hc⟩ | ⟨hm, hc⟩ | ⟨hm, hc⟩ | hm
  · rw [hm, and_F000_toNat] at hw
    have hclass : w.toNat / 0x1000 = r.pattern.toNat / 0x1000 := by omega
    exact .inr (.inl (hclass ▸ hc))
  · rw [hm, and_F00F_toNat] at hw
    have hclass : r.pattern.toNat / 0x1000 = w.toNat / 0x1000 := by omega
    have hn : r.pattern.toNat % 0x10 = w.toNat % 0x10 := by omega
    rw [selectedByClass, hclass, hn] at hp
    exact (selectedByFields_iff_of_n (hclass ▸ hc)).1 hp
  · rw [hm, and_F0FF_toNat] at hw
    have hclass : r.pattern.toNat / 0x1000 = w.toNat / 0x1000 := by omega
    have hnn : r.pattern.toNat % 0x100 = w.toNat % 0x100 := by omega
    rw [selectedByClass, hclass, hnn] at hp
    exact (selectedByFields_iff_of_nn (hclass ▸ hc)).1 hp
  · rw [hm, and_FFFF_toNat] at hw
    rwa [BitVec.eq_of_toNat_eq hw]

open Laws.EncodesItsRow in
/-- R56: the row at an instruction's place in the map selects its word. -/
theorem encodesItsRow : ∀ ins, Statement ins
  | .cls => cls
  | .ret => ret
  | .jp _ => jp _
  | .call _ => call _
  | .seImm _ _ => seImm _ _
  | .sneImm _ _ => sneImm _ _
  | .seReg _ _ => seReg _ _
  | .sneReg _ _ => sneReg _ _
  | .ldImm _ _ => ldImm _ _
  | .addImm _ _ => addImm _ _
  | .ldReg _ _ => ldReg _ _
  | .orReg _ _ => orReg _ _
  | .andReg _ _ => andReg _ _
  | .xorReg _ _ => xorReg _ _
  | .addReg _ _ => addReg _ _
  | .subReg _ _ => subReg _ _
  | .shr _ _ => shr _ _
  | .subnReg _ _ => subnReg _ _
  | .shl _ _ => shl _ _
  | .ldI _ => ldI _
  | .jpV0 _ => jpV0 _
  | .rnd _ _ => rnd _ _
  | .drw _ _ _ => drw _ _ _
  | .skp _ => skp _
  | .sknp _ => sknp _
  | .ldVxDt _ => ldVxDt _
  | .ldDtVx _ => ldDtVx _
  | .ldStVx _ => ldStVx _
  | .addI _ => addI _
  | .ldF _ => ldF _
  | .ldB _ => ldB _
  | .store _ => store _
  | .load _ => load _

/-- R56, R58: the map selects the words that decode. -/
theorem wordDefined_iff_decode_ok (w : Word) : wordDefined w = true ↔ ∃ ins, decode w = .ok ins := by
  constructor
  · intro h
    obtain ⟨r, hr, hsel⟩ := List.any_eq_true.1 h
    obtain ⟨hcmp, hp⟩ := opcodeTable_comparesSelector r hr
    exact (decode_ok_iff_selectedByClass w).2 (selectedByClass_of_selects hcmp hp hsel)
  · rintro ⟨ins, h⟩
    obtain ⟨r, hr, hsel⟩ := encodesItsRow ins
    rw [encodeOfDecodeIsIdentity w ins h] at hsel
    exact List.any_eq_true.2 ⟨r, List.mem_of_getElem? hr, hsel⟩

/-- R59: the words that no row selects are refused. -/
theorem wordDefined_eq_false_iff (w : Word) : wordDefined w = false ↔ decode w = .error (.undefinedOpcode w) := by
  rw [decode_refuses_iff, ← wordDefined_iff_decode_ok, Bool.not_eq_true]

/-- Two rows that agree on the bits both compare are one row. -/
theorem opcodeTable_rows_differ : ∀ r ∈ opcodeTable, ∀ r' ∈ opcodeTable,
    r.pattern &&& r'.mask = r'.pattern &&& r.mask → r = r' := by decide +kernel

/-- R56: a word selected by two rows shows that they agree on the bits both compare. -/
theorem pattern_and_mask_comm {w : Word} {r r' : Row} (h : r.selects w = true) (h' : r'.selects w = true) :
    r.pattern &&& r'.mask = r'.pattern &&& r.mask := by
  rw [← beq_iff_eq.1 h, ← beq_iff_eq.1 h', BitVec.and_assoc, BitVec.and_assoc, BitVec.and_comm r.mask]

/-- Settles O5: an instruction's own row selects its word, what no row selects is refused, and no two rows agree on the bits
both compare. -/
theorem opcodeMapRowsSelectWhatDecodes : Obligations.OpcodeMapRowsSelectWhatDecodes := by
  refine ⟨fun w ins h => ?ownRow, wordDefined_eq_false_iff, fun w r r' hr hr' h h' => ?oneRow⟩
  case ownRow =>
    obtain ⟨r, hr, hsel⟩ := encodesItsRow ins
    rwa [List.getD_eq_getElem?_getD, hr, Option.getD_some, ← encodeOfDecodeIsIdentity w ins h]
  case oneRow => exact opcodeTable_rows_differ r hr r' hr' (pattern_and_mask_comm h h')

/-- Settles O6: each word is the encoding of the instruction it stands for. -/
theorem specWordsDecode : Obligations.SpecWordsDecode :=
  have roundTrip := decodeOfEncodeIsIdentity
  ⟨roundTrip .cls, roundTrip .ret, roundTrip (.call 0xABC), roundTrip (.seImm 10 0x7F), roundTrip (.sneReg 10 11),
    roundTrip (.addImm 10 0x7F), roundTrip (.addReg 10 11), roundTrip (.shl 10 11), roundTrip (.rnd 10 0x7F),
    roundTrip (.ldB 10), roundTrip (.load 10), roundTrip (.sknp 10), roundTrip (.ldVxDt 10), roundTrip (.drw 5 10 7),
    roundTrip (.ldI 0x7D5)⟩

end Sys2Proof.Machine
end

section
/-!
PROOFS. Everything an instruction can do, and everything a running step can do, said once. An instruction either raises, and
then only the latch is written (60_exceptions.md R148), or completes, and then it changes what its rule names and nothing else
(R11 to R19, R38). The rules of the whole machine and the invariants of a step are read off this.
-/

namespace Sys2Proof.Machine

/-! ### The ways an instruction can end -/

/-- The bytes at I that an instruction transfers (20_memory.md R37): N for DXYN, three for FX33, X + 1 for FX55 and FX65. -/
def transferLength : Instr → Nat
  | .drw _ _ n => n.toNat
  | .ldB _ => 3
  | .store x => x.val + 1
  | .load x => x.val + 1
  | _ => 0

/-- The faults an instruction raises, each under its condition (R142, R143, R145). -/
inductive Raises (s : State) : Instr → Fault → Prop
  | stackFull (nnn : Addr12) (h : s.sp.val = 16) : Raises s (.call nnn) (.stackOverflow (encode (.call nnn)) s.pc)
  | stackEmpty (h : s.sp.val = 0) : Raises s .ret (.stackUnderflow (encode .ret) s.pc)
  | outside (ins : Instr) (hpos : 0 < transferLength ins) (h : 0x1000 < s.i.toNat + transferLength ins) :
      Raises s ins (.addressOutOfRange (max s.i.toNat 0x1000) (encode ins) s.pc)

/-- PC after an instruction that completes (R15). -/
def pcAfter : Instr → State → Word
  | .ret, s => s.stack[s.sp.val - 1] + 2
  | .jp nnn, _ => zext16 nnn
  | .call nnn, _ => zext16 nnn
  | .jpV0 nnn, s => zext16 (s.reg 0) + zext16 nnn
  | .seImm x nn, s => s.pc + if s.reg x == nn then 4 else 2
  | .sneImm x nn, s => s.pc + if s.reg x != nn then 4 else 2
  | .seReg x y, s => s.pc + if s.reg x == s.reg y then 4 else 2
  | .sneReg x y, s => s.pc + if s.reg x != s.reg y then 4 else 2
  | .sknp _, s => s.pc + 4
  | _, s => s.pc + 2

/-- What an instruction that completes changes, field by field. The fields carry the proof that nothing changed as their
default, so that a completion is shown by what it does change. -/
structure Completes (ins : Instr) (s t : State) : Prop where
  status : t.status = s.status := by rfl
  pc : t.pc = pcAfter ins s := by rfl
  reg : ∀ k, writesReg ins k = false → t.reg k = s.reg k := by exact fun _ _ => rfl
  i : t.i = s.i ∨ (∃ nnn, ins = .ldI nnn) ∨ (∃ x, ins = .addI x) := by exact .inl rfl
  stack : t.stack = s.stack ∨ (∃ nnn, ins = .call nnn) ∧ ∃ h : s.sp.val < 16, t.stack = s.stack.set s.sp.val s.pc := by
    exact .inl rfl
  sp : t.sp = s.sp ∨ (∃ nnn, ins = .call nnn) ∨ ins = .ret := by exact .inl rfl
  spCall : ∀ nnn, ins = .call nnn → t.sp.val = s.sp.val + 1 := by nofun
  spRet : ins = .ret → t.sp.val + 1 = s.sp.val := by nofun
  px : t.px = s.px ∨ ins = .cls ∨ (∃ x y n, ins = .drw x y n) := by exact .inl rfl
  mem : t.mem = s.mem ∨ ∃ bs, t.mem = s.mem.writeBytes s.i.toNat bs ∧ s.i.toNat + bs.length ≤ Config.memSize ∧
    ((∃ x, ins = .ldB x ∧ bs.length = 3) ∨ ∃ x : Reg, ins = .store x ∧ bs.length = x.val + 1) := by exact .inl rfl

/-- What an instruction that answers `t` did: it took a fault of its own, or it completed. -/
def RaisedOrCompleted (ins : Instr) (s t : State) : Prop := (∃ f, Raises s ins f ∧ t = raise s f) ∨ Completes ins s t

/-! ### Each instruction ends in one of these ways -/

/-- A call fills the slot SP, or finds no free slot (R83). -/
theorem call_raisesOrCompletes (nnn : Addr12) (s : State) :
    ∃ t, exec (.call nnn) s = .next t ∧ RaisedOrCompleted (.call nnn) s t := by
  by_cases h : s.sp.val < 16
  · exact ⟨_, execCall_free h,
      .inr { stack := .inr ⟨⟨nnn, rfl⟩, h, rfl⟩, sp := .inr (.inl ⟨nnn, rfl⟩), spCall := fun _ _ => rfl }⟩
  · exact ⟨_, execCall_full h, .inl ⟨_, .stackFull nnn (by omega), rfl⟩⟩

/-- A return takes the slot below SP, or finds none (R81). -/
theorem ret_raisesOrCompletes (s : State) : ∃ t, exec .ret s = .next t ∧ RaisedOrCompleted .ret s t := by
  by_cases h : 0 < s.sp.val
  · exact ⟨_, execRet_held h, .inr { sp := .inr (.inr rfl), spCall := nofun, spRet := fun _ => Nat.sub_add_cancel h }⟩
  · exact ⟨_, execRet_empty h, .inl ⟨_, .stackEmpty (by omega), rfl⟩⟩

/-- A transfer is done where it fits, and raises where it does not (R37). -/
theorem transfer_raisesOrCompletes {ins : Instr} {s done : State}
    (hexec : exec ins s = s.withTransfer ins (transferLength ins) done)
    (hdone : transferLength ins = 0 ∨ s.i.toNat + transferLength ins ≤ Config.memSize → Completes ins s done) :
    ∃ t, exec ins s = .next t ∧ RaisedOrCompleted ins s t := by
  rw [hexec]
  by_cases h : transferLength ins = 0 ∨ s.i.toNat + transferLength ins ≤ 4096
  · exact ⟨_, withTransfer_fits ins done h, .inr (hdone h)⟩
  · exact ⟨_, withTransfer_faults ins done h, .inl ⟨_, .outside ins (by omega) (by omega), rfl⟩⟩

/-- A draw that fits changes the grid and VF (R126), whatever the compositor answers. -/
theorem completes_draw (x y : Reg) (n : Nibble) (s : State) (g : Grid) (f : Bool) :
    Completes (.drw x y n) s (State.setFlag { s with px := g } f).nextInstr where
  reg _ hk := reg_setReg_ne _ _ (ne_of_beq_false hk)
  px := .inr (.inr ⟨x, y, n, rfl⟩)

/-- A load that fits changes V0 to VX (R115), whatever bytes it reads. -/
theorem completes_load (x : Reg) (s : State) (v : Vector Byte 16) (hv : ∀ k : Reg, ¬ k.val ≤ x.val → v[k.val] = s.reg k) :
    Completes (.load x) s (State.nextInstr { s with v := v }) where
  reg k hk := hv k (of_decide_eq_false hk)

/-- R11 to R19, R73: every instruction answers a next state, by a fault of its own taken or by its completion. -/
theorem exec_raisesOrCompletes (ins : Instr) (s : State) : ∃ t, exec ins s = .next t ∧ RaisedOrCompleted ins s t := by
  cases ins
  case call nnn => exact call_raisesOrCompletes nnn s
  case ret => exact ret_raisesOrCompletes s
  case jp | jpV0 | seImm | sneImm | seReg | sneReg | skp | sknp | ldVxDt | ldDtVx | ldStVx | ldF => exact ⟨_, rfl, .inr {}⟩
  case ldImm | addImm | ldReg | orReg | andReg | xorReg | rnd =>
    exact ⟨_, rfl, .inr { reg := fun _ hk => reg_setReg_ne _ _ (ne_of_beq_false hk) }⟩
  case addReg | subReg | shr | subnReg | shl =>
    refine ⟨_, rfl, .inr { reg := fun k hk => ?_ }⟩
    obtain ⟨hx, hf⟩ := Bool.or_eq_false_iff.1 hk
    exact reg_setResultFlag_ne s _ _ (ne_of_beq_false hx) (ne_of_beq_false hf)
  case cls => exact ⟨_, rfl, .inr { px := .inr (.inl rfl) }⟩
  case ldI nnn => exact ⟨_, rfl, .inr { i := .inr (.inl ⟨nnn, rfl⟩) }⟩
  case addI x => exact ⟨_, rfl, .inr { i := .inr (.inr ⟨x, rfl⟩) }⟩
  case drw x y n =>
    exact transfer_raisesOrCompletes rfl fun _ => completes_draw x y n s _ _
  case ldB x =>
    exact transfer_raisesOrCompletes rfl fun h =>
      { mem := .inr ⟨_, rfl, h.resolve_left nofun, .inl ⟨x, rfl, bcdDigits_length _⟩⟩ }
  case store x =>
    exact transfer_raisesOrCompletes rfl fun h =>
      { mem := .inr ⟨_, rfl, (regsTo_length s x).symm ▸ h.resolve_left nofun, .inr ⟨x, rfl, regsTo_length s x⟩⟩ }
  case load x =>
    exact transfer_raisesOrCompletes rfl fun _ => completes_load x s _ fun k hk => (reg_loadRegsTo s x _ k).trans (if_neg hk)

/-- Everything an instruction can do. -/
theorem exec_cases {ins : Instr} {s t : State} (h : exec ins s = .next t) : RaisedOrCompleted ins s t := by
  obtain ⟨t', h', hcases⟩ := exec_raisesOrCompletes ins s
  cases h.symm.trans h'
  exact hcases

/-! ### Everything a running step can do -/

/-- The faults a running step latches, each with its cause: of the fetch (R144), of the decoder (R141), or of the instruction
whose word is at PC. -/
inductive Latches (s : State) : Fault → Prop
  | fetch (h : ¬ s.pc.toNat ≤ 0xFFE) : Latches s (.fetchOutOfRange s.pc)
  | undefined {w : Word} (hpc : s.pc.toNat ≤ 0xFFE) (hw : w.toNat = wordAtPc s) (h : wordDefined w = false) :
      Latches s (.undefinedOpcode w s.pc)
  | raised {ins : Instr} {f : Fault} (hpc : s.pc.toNat ≤ 0xFFE) (hw : (encode ins).toNat = wordAtPc s)
      (h : Raises s ins f) : Latches s f

/-- Everything the step of a running core can do: a fault taken, or the instruction at PC completed. -/
theorem runningStep_cases {s t : State} (hrun : s.status = .running) (h : step s = .next t) :
    (∃ f, Latches s f ∧ t = raise s f) ∨
    (s.pc.toNat ≤ 0xFFE ∧ ∃ ins, (encode ins).toNat = wordAtPc s ∧ exec ins s = .next t ∧ Completes ins s t) := by
  rcases step_cases h with ⟨⟨f, hf⟩, -⟩ | ⟨-, hpc, w, ins, hw, hdec, hexec⟩ | ⟨-, hpc, w, hw, hdec, ht⟩ | ⟨-, hpc, ht⟩
  · rw [hrun] at hf
    cases hf
  · rw [← encodeOfDecodeIsIdentity w ins hdec] at hw
    rcases exec_cases hexec with ⟨f, hf, ht⟩ | hdone
    · exact .inl ⟨f, .raised hpc hw hf, ht⟩
    · exact .inr ⟨hpc, ins, hw, hexec, hdone⟩
  · exact .inl ⟨_, .undefined hpc hw ((wordDefined_eq_false_iff w).2 hdec), ht⟩
  · exact .inl ⟨_, .fetch hpc, ht⟩

/-- R33, R70: the step of a running core whose PC holds the word of an instruction is that instruction. -/
theorem step_eq_exec {s : State} {ins : Instr} (hrun : s.status = .running) (hpc : s.pc.toNat ≤ 0xFFE)
    (hw : (encode ins).toNat = wordAtPc s) : step s = exec ins s :=
  stepRunsTheDecodedInstruction s (encode ins) ins hrun hpc hw (decodeOfEncodeIsIdentity ins)

end Sys2Proof.Machine
end

section
/-!
PROOFS. The faults of a step (60_exceptions.md), and the invariants every step keeps.
-/

namespace Sys2Proof.Machine

/-! ### Faults -/

/-- R71, R147: a record that a running step leaves in the latch is one whose cause held, and the latch is all that changed. -/
theorem latched_of_step {s t : State} {f : Fault} (hrun : s.status = .running) (h : step s = .next t)
    (hf : t.status = .faulted f) : Latches s f ∧ t = raise s f := by
  rcases runningStep_cases hrun h with ⟨f', hlatch, rfl⟩ | ⟨-, ins, -, -, hdone⟩
  · cases hf
    exact ⟨hlatch, rfl⟩
  · rw [hdone.status, hrun] at hf
    cases hf

/-- R140: every record carries the PC of its step. -/
theorem Latches.pcOf_eq {s : State} {f : Fault} (h : Latches s f) : f.pcOf = s.pc := by
  cases h with
  | fetch => rfl
  | undefined => rfl
  | raised _ _ h => cases h <;> rfl

/-- R145: which words transfer bytes at I, how many, and where their highest address is above 0xFFF. -/
theorem transfer_outside_digits {s : State} {ins : Instr} (hpos : 0 < transferLength ins)
    (h : 0x1000 < s.i.toNat + transferLength ins) :
    let w := (encode ins).toNat
    (w / 0x1000 = 0xD ∧ 0 < w % 0x10 ∧ s.i.toNat + w % 0x10 - 1 > 0xFFF) ∨
    (w / 0x1000 = 0xF ∧ w % 0x100 = 0x33 ∧ s.i.toNat + 2 > 0xFFF) ∨
    (w / 0x1000 = 0xF ∧ (w % 0x100 = 0x55 ∨ w % 0x100 = 0x65) ∧ s.i.toNat + w / 0x100 % 0x10 > 0xFFF) := by
  intro w
  have hw := encodingByHexDigits ins
  cases ins
  case drw x y n =>
    have hw : w = 0xD000 + 0x100 * x.val + 0x10 * y.val + n.toNat := hw
    have hn := n.isLt
    simp only [transferLength] at hpos h
    exact .inl (by omega)
  case ldB x =>
    have hw : w = 0xF033 + 0x100 * x.val := hw
    simp only [transferLength] at h
    exact .inr (.inl (by omega))
  case store x =>
    have hw : w = 0xF055 + 0x100 * x.val := hw
    simp only [transferLength] at h
    exact .inr (.inr (by omega))
  case load x =>
    have hw : w = 0xF065 + 0x100 * x.val := hw
    simp only [transferLength] at h
    exact .inr (.inr (by omega))
  all_goals exact absurd hpos (lt_irrefl 0)

/-- Settles O12: the causes are those of `Latches`, and the word at PC is the encoding of the instruction that raised. -/
theorem everyFaultRecordTellsItsCause : Obligations.EveryFaultRecordTellsItsCause := by
  intro s t f hrun hstep hf
  obtain ⟨hlatch, -⟩ := latched_of_step hrun hstep hf
  cases hlatch with
  | fetch hpc => exact ⟨rfl, Nat.not_le.1 hpc⟩
  | undefined hpc hw hund => exact ⟨rfl, hpc, hw, hund⟩
  | raised hpc hw hraise =>
    cases hraise with
    | stackFull nnn hsp =>
      have hdigits : (encode (.call nnn)).toNat = 0x2000 + nnn.toNat := encodingByHexDigits _
      exact ⟨rfl, hpc, hw, by omega, hsp⟩
    | stackEmpty hsp => exact ⟨rfl, hpc, hw, hw.symm, hsp⟩
    | outside ins hpos hout => exact ⟨rfl, hpc, hw, rfl, hw ▸ transfer_outside_digits hpos hout⟩

/-- Settles O11: a record is left by `raise`. -/
theorem faultWritesOnlyTheLatch : Obligations.FaultWritesOnlyTheLatch := fun _ _ _ hrun hstep hf =>
  (latched_of_step hrun hstep hf).2

/-- Settles O13: a faulted core stays, a fetch that raises is taken, and every instruction answers a next state. -/
theorem everyStepGivesANextState : Obligations.EveryStepGivesANextState := by
  intro s
  cases hs : s.status with
  | faulted f => exact ⟨s, step_faulted hs⟩
  | running =>
    cases hf : fetchInstr s with
    | error f => exact ⟨_, step_raise hs hf⟩
    | ok ins =>
      obtain ⟨t, ht, -⟩ := exec_raisesOrCompletes ins s
      exact ⟨t, (step_exec hs hf).trans ht⟩

/-! ### Invariants -/

/-- An invariant of the step: it is enough that taking a fault keeps it and that the instruction at a PC within memory does. -/
theorem step_keeps {P : State → Prop} (hraise : ∀ s f, P s → Latches s f → P (raise s f))
    (hdone : ∀ s t ins, P s → s.status = .running → s.pc.toNat ≤ 0xFFE → Completes ins s t → P t) {s t : State} (hP : P s)
    (h : step s = .next t) : P t := by
  cases hs : s.status with
  | faulted f =>
    rw [step_faulted hs] at h
    cases h
    exact hP
  | running =>
    rcases runningStep_cases hs h with ⟨f, hf, rfl⟩ | ⟨hpc, ins, -, -, hc⟩
    · exact hraise s f hP hf
    · exact hdone s t ins hP hs hpc hc

/-- Settles O14: what a completed instruction does to memory is nothing, or a transfer that fits. -/
theorem stepKeepsMemoryCanonical : Obligations.StepKeepsMemoryCanonical := by
  intro s t
  refine step_keeps (P := MemCanonical) (fun _ _ h _ => h) (fun s t ins hwf _ _ hdone => ?_)
  rcases hdone.mem with hmem | ⟨bs, hmem, hfits, -⟩
  · rwa [MemCanonical, hmem]
  · rw [MemCanonical, hmem]
    exact Memory.wf_writeBytes hfits hwf

/-- R15: the instructions that set PC otherwise than by 2 or 4. -/
theorem pcAfter_cases (ins : Instr) (s : State) :
    ins = .ret ∨ (∃ nnn, ins = .jp nnn) ∨ (∃ nnn, ins = .call nnn) ∨ (∃ nnn, ins = .jpV0 nnn) ∨
      pcAfter ins s = s.pc + 2 ∨ pcAfter ins s = s.pc + 4 := by
  have skip : ∀ c : Bool, s.pc + (if c then 4 else 2) = s.pc + 2 ∨ s.pc + (if c then 4 else 2) = s.pc + 4 := by
    rintro (_ | _)
    · exact .inl rfl
    · exact .inr rfl
  cases ins
  case ret => exact .inl rfl
  case jp nnn => exact .inr (.inl ⟨nnn, rfl⟩)
  case call nnn => exact .inr (.inr (.inl ⟨nnn, rfl⟩))
  case jpV0 nnn => exact .inr (.inr (.inr (.inl ⟨nnn, rfl⟩)))
  case sknp => exact .inr (.inr (.inr (.inr (.inr rfl))))
  case seImm | sneImm | seReg | sneReg => exact .inr (.inr (.inr (.inr (skip _))))
  all_goals exact .inr (.inr (.inr (.inr (.inl rfl))))

/-- R84, D25: the target of BNNN is the sum of the two numbers. -/
theorem jpV0_target_toNat (nnn : Addr12) (s : State) :
    (zext16 (s.reg 0) + zext16 nnn).toNat = (s.reg 0).toNat + nnn.toNat := by
  have hv := (s.reg 0).isLt
  have hn := nnn.isLt
  rw [BitVec.toNat_add, zext16_toNat (by decide), zext16_toNat (by decide), Nat.mod_eq_of_lt (by omega)]

/-- R16: from a PC within memory, PC goes no higher than the highest target of BNNN. -/
theorem pcAfter_le {s : State} (ins : Instr) (hpc : s.pc.toNat ≤ 0xFFE)
    (hstack : ∀ k : Fin 16, s.stack[k.val].toNat ≤ 0xFFE) : (pcAfter ins s).toNat ≤ 0x10FE := by
  rcases pcAfter_cases ins s with rfl | ⟨nnn, rfl⟩ | ⟨nnn, rfl⟩ | ⟨nnn, rfl⟩ | h | h
  · have hslot : s.stack[s.sp.val - 1].toNat ≤ 0xFFE := hstack ⟨s.sp.val - 1, by omega⟩
    rw [pcAfter, BitVec.toNat_add]
    exact (Nat.mod_le _ _).trans (Nat.add_le_add_right hslot 2 |>.trans (by decide))
  · rw [pcAfter, zext16_toNat (by decide)]
    omega
  · rw [pcAfter, zext16_toNat (by decide)]
    omega
  · have hv := (s.reg 0).isLt
    rw [pcAfter, jpV0_target_toNat]
    omega
  · rw [h]
    bv_omega
  · rw [h]
    bv_omega

/-- Settles O15: PC after a completed instruction is bounded, and the one slot that is written gets a PC within memory. -/
theorem stepKeepsPcAndStackBounds : Obligations.StepKeepsPcAndStackBounds := by
  intro s t
  refine step_keeps (P := PcAndStackBounded) (fun _ _ h _ => h) (fun s t ins hb _ hpc hdone => ?_)
  obtain ⟨-, hslots⟩ := hb
  refine ⟨hdone.pc ▸ pcAfter_le ins hpc hslots, fun k => ?_⟩
  rcases hdone.stack with hstack | ⟨-, hsp, hstack⟩
  · rw [hstack]
    exact hslots k
  · rw [hstack, Vector.getElem_set]
    split
    · exact hpc
    · exact hslots k

/-- Settles O16: a record just latched carries PC; a completed instruction leaves the latch running. -/
theorem stepKeepsRecordAtPc : Obligations.StepKeepsRecordAtPc := by
  intro s t
  refine step_keeps (P := RecordAtPc) (fun s f _ hlatch f' hf => ?_) (fun s t ins _ hrun _ hdone => ?_)
  · cases hf
    exact hlatch.pcOf_eq
  · exact recordAtPc_of_running (hdone.status.trans hrun)

end Sys2Proof.Machine
end

section
/-!
PROOFS. PC after a step (10_state.md R15), and the runs that end (70_reset_and_hazards.md R181).
-/

namespace Sys2Proof.Machine

/-! ### PC by the digits of the word -/

/-- R85 to R88, R131: the words that skip, by their digits. -/
abbrev TakesSkip (s : State) (w : Nat) : Prop :=
  (w / 0x1000 = 0x3 ∧ (s.reg (Fin.ofNat 16 (w / 0x100))).toNat = w % 0x100) ∨
  (w / 0x1000 = 0x4 ∧ (s.reg (Fin.ofNat 16 (w / 0x100))).toNat ≠ w % 0x100) ∨
  (w / 0x1000 = 0x5 ∧ s.reg (Fin.ofNat 16 (w / 0x100)) = s.reg (Fin.ofNat 16 (w / 0x10))) ∨
  (w / 0x1000 = 0x9 ∧ s.reg (Fin.ofNat 16 (w / 0x100)) ≠ s.reg (Fin.ofNat 16 (w / 0x10))) ∨
  (w / 0x1000 = 0xE ∧ w % 0x100 = 0xA1)

/-- R15: PC after a completed step, by the digits of the word executed. -/
abbrev PcByDigits (s t : State) (w : Nat) : Prop :=
  if w = 0x00EE then ∃ k : Fin 16, k.val + 1 = s.sp.val ∧ t.pc = s.stack[k.val] + 2
  else if w / 0x1000 = 0x1 ∨ w / 0x1000 = 0x2 then t.pc.toNat = w % 0x1000
  else if w / 0x1000 = 0xB then t.pc.toNat = (s.reg 0).toNat + w % 0x1000
  else if TakesSkip s w then t.pc = s.pc + 4
  else t.pc = s.pc + 2

/-- Only the low digit of a number is a register's. -/
theorem reg_ofNat_of_mod {n : Nat} {x : Reg} (s : State) (h : n % 16 = x.val) : s.reg (Fin.ofNat 16 n) = s.reg x :=
  congrArg s.reg (Fin.ext h)

/-- The operands X and NN of a word of format XI, by its digits. -/
theorem digits_xi {w c : Nat} {x : Reg} {nn : Byte} (s : State) (hw : w = 0x1000 * c + 0x100 * x.val + nn.toNat) :
    w / 0x1000 = c ∧ s.reg (Fin.ofNat 16 (w / 0x100)) = s.reg x ∧ w % 0x100 = nn.toNat := by
  have hn := nn.isLt
  exact ⟨by omega, reg_ofNat_of_mod s (by omega), by omega⟩

/-- The operands X and Y of a word of format XY, by its digits. -/
theorem digits_xy {w c : Nat} {x y : Reg} (s : State) (hw : w = 0x1000 * c + 0x100 * x.val + 0x10 * y.val) :
    w / 0x1000 = c ∧ s.reg (Fin.ofNat 16 (w / 0x100)) = s.reg x ∧ s.reg (Fin.ofNat 16 (w / 0x10)) = s.reg y :=
  ⟨by omega, reg_ofNat_of_mod s (by omega), reg_ofNat_of_mod s (by omega)⟩

/-- 1NNN and 2NNN (R82, R83). -/
theorem pcByDigits_jump {s t : State} {w : Nat} (hc : w / 0x1000 = 0x1 ∨ w / 0x1000 = 0x2) (hpc : t.pc.toNat = w % 0x1000) :
    PcByDigits s t w := by
  rwa [PcByDigits, if_neg (by omega), if_pos hc]

/-- BNNN (R84). -/
theorem pcByDigits_indexedJump {s t : State} {w : Nat} (hc : w / 0x1000 = 0xB)
    (hpc : t.pc.toNat = (s.reg 0).toNat + w % 0x1000) : PcByDigits s t w := by
  rwa [PcByDigits, if_neg (by omega), if_neg (by omega), if_pos hc]

/-- Every other instruction is a skip whose condition decides whether its word is one that skips (R75). -/
theorem pcByDigits_skip {s t : State} {w : Nat} {cond : Bool} (hret : w ≠ 0x00EE)
    (hc : w / 0x1000 ≠ 0x1 ∧ w / 0x1000 ≠ 0x2 ∧ w / 0x1000 ≠ 0xB) (hcond : cond = true ↔ TakesSkip s w)
    (hpc : t.pc = s.pc + if cond then 4 else 2) : PcByDigits s t w := by
  rw [PcByDigits, if_neg hret, if_neg (by omega), if_neg (by omega)]
  by_cases hskip : TakesSkip s w
  · rw [if_pos hskip, hpc, if_pos (hcond.2 hskip)]
  · rw [if_neg hskip, hpc, if_neg (mt hcond.1 hskip)]

/-- An instruction that always goes on to the next: its word is none that skips (R75). -/
theorem pcByDigits_next {s t : State} {w : Nat} (hret : w ≠ 0x00EE)
    (hc : w / 0x1000 ∉ [0x1, 0x2, 0x3, 0x4, 0x5, 0x9, 0xB]) (hE : ¬ (w / 0x1000 = 0xE ∧ w % 0x100 = 0xA1))
    (hpc : t.pc = s.pc + 2) : PcByDigits s t w := by
  simp only [List.mem_cons, List.not_mem_nil, or_false, not_or] at hc
  obtain ⟨h1, h2, h3, h4, h5, h9, hB⟩ := hc
  refine pcByDigits_skip (cond := false) hret ⟨h1, h2, hB⟩ ?_ hpc
  simp [TakesSkip, h3, h4, h5, h9, hE]

/-- R15: PC after an instruction that completes, by the digits of its word. -/
theorem pcByDigits_of_completes {ins : Instr} {s t : State} (h : Completes ins s t) : PcByDigits s t (encode ins).toNat := by
  have hpc := h.pc
  have hw := encodingByHexDigits ins
  generalize (encode ins).toNat = w at hw ⊢
  cases ins
  case ret =>
    rw [PcByDigits, if_pos hw]
    have hsp := h.spRet rfl
    have hslot : s.sp.val - 1 + 1 = s.sp.val := by omega
    exact ⟨⟨s.sp.val - 1, by omega⟩, hslot, hpc⟩
  case jp nnn | call nnn =>
    have hn := nnn.isLt
    have htarget : t.pc.toNat = nnn.toNat := by rw [hpc, pcAfter, zext16_toNat (by decide)]
    simp only at hw
    exact pcByDigits_jump (by omega) (by omega)
  case jpV0 nnn =>
    have hn := nnn.isLt
    have htarget : t.pc.toNat = (s.reg 0).toNat + nnn.toNat := by rw [hpc, pcAfter, jpV0_target_toNat]
    simp only at hw
    exact pcByDigits_indexedJump (by omega) (by omega)
  case seImm x nn =>
    obtain ⟨hc, hx, hnn⟩ := digits_xi (c := 0x3) s hw
    refine pcByDigits_skip (by omega) (by omega) ?_ hpc
    rw [TakesSkip, hc, hx, hnn]
    simp [← BitVec.toNat_inj]
  case sneImm x nn =>
    obtain ⟨hc, hx, hnn⟩ := digits_xi (c := 0x4) s hw
    refine pcByDigits_skip (by omega) (by omega) ?_ hpc
    rw [TakesSkip, hc, hx, hnn]
    simp [← BitVec.toNat_inj]
  case seReg x y =>
    obtain ⟨hc, hx, hy⟩ := digits_xy (c := 0x5) s hw
    refine pcByDigits_skip (by omega) (by omega) ?_ hpc
    rw [TakesSkip, hc, hx, hy]
    simp
  case sneReg x y =>
    obtain ⟨hc, hx, hy⟩ := digits_xy (c := 0x9) s hw
    refine pcByDigits_skip (by omega) (by omega) ?_ hpc
    rw [TakesSkip, hc, hx, hy]
    simp
  case sknp x =>
    simp only at hw
    exact pcByDigits_skip (cond := true) (by omega) (by omega) (iff_of_true rfl (by omega)) hpc
  all_goals
    simp only at hw
    exact pcByDigits_next (by omega) (by simp; omega) (by omega) hpc

/-- Settles O53: a fault keeps PC; a completed instruction is the one whose word is at PC. -/
theorem pcAfterAStep : Obligations.PcAfterAStep := by
  intro s t hrun hstep
  rcases runningStep_cases hrun hstep with ⟨f, -, rfl⟩ | ⟨-, ins, hw, -, hdone⟩
  · exact ⟨fun _ => rfl, nofun⟩
  · exact ⟨fun hfaulted => absurd (hdone.status.trans hrun) hfaulted, fun _ => hw ▸ pcByDigits_of_completes hdone⟩

/-! ### The normal end of a run -/

/-- A completion that keeps the state is a jump to PC: every other PC rule moves PC, a call and a return move SP. -/
theorem completes_self {ins : Instr} {s : State} (h : Completes ins s s) :
    (∃ nnn, ins = .jp nnn ∧ nnn.toNat = s.pc.toNat) ∨
    ∃ nnn, ins = .jpV0 nnn ∧ (s.reg 0).toNat + nnn.toNat = s.pc.toNat := by
  have hpc := h.pc
  rcases pcAfter_cases ins s with rfl | ⟨nnn, rfl⟩ | ⟨nnn, rfl⟩ | ⟨nnn, rfl⟩ | hnext | hskip
  · exact absurd (h.spRet rfl) (Nat.succ_ne_self _)
  · exact .inl ⟨nnn, rfl, by rw [hpc, pcAfter, zext16_toNat (by decide)]⟩
  · exact absurd (h.spCall nnn rfl) (Nat.succ_ne_self _).symm
  · exact .inr ⟨nnn, rfl, by rw [hpc, pcAfter, jpV0_target_toNat]⟩
  · rw [hnext] at hpc
    bv_omega
  · rw [hskip] at hpc
    bv_omega

/-- R82, R84: a jump to PC answers the state itself. -/
theorem jumpTo_pc_self {s : State} {a : Word} (h : a.toNat = s.pc.toNat) : s.jumpTo a = s := by
  rw [BitVec.eq_of_toNat_eq h]
  rfl

/-- R82: the step of a core whose PC holds a jump to PC. -/
theorem step_selfJump {s : State} (hrun : s.status = .running) (hpc : s.pc.toNat ≤ 0xFFE) (hc : wordAtPc s / 0x1000 = 0x1)
    (hself : wordAtPc s % 0x1000 = s.pc.toNat) : step s = .next s := by
  have hnnn : (BitVec.ofNat 12 s.pc.toNat).toNat = s.pc.toNat := Nat.mod_eq_of_lt (by omega)
  have hw : (encode (.jp (BitVec.ofNat 12 s.pc.toNat))).toNat = 0x1000 + (BitVec.ofNat 12 s.pc.toNat).toNat :=
    encodingByHexDigits _
  rw [step_eq_exec hrun hpc (hw.trans (by omega))]
  exact congrArg Host.Outcome.next (jumpTo_pc_self ((zext16_toNat (by decide) _).trans hnnn))

/-- R84: the step of a core whose PC holds an indexed jump to PC. -/
theorem step_selfIndexedJump {s : State} (hrun : s.status = .running) (hpc : s.pc.toNat ≤ 0xFFE)
    (hc : wordAtPc s / 0x1000 = 0xB) (hself : (s.reg 0).toNat + wordAtPc s % 0x1000 = s.pc.toNat) : step s = .next s := by
  have hnnn : (BitVec.ofNat 12 (wordAtPc s)).toNat = wordAtPc s % 0x1000 := BitVec.toNat_ofNat _ _
  have hw : (encode (.jpV0 (BitVec.ofNat 12 (wordAtPc s)))).toNat = 0xB000 + (BitVec.ofNat 12 (wordAtPc s)).toNat :=
    encodingByHexDigits _
  rw [step_eq_exec hrun hpc (hw.trans (by omega))]
  exact congrArg Host.Outcome.next (jumpTo_pc_self ((jpV0_target_toNat _ s).trans (by omega)))

/-- Settles O54: a running step that keeps the state latches nothing, so it completes the instruction at PC. -/
theorem runEndsExactlyAtASelfJump : Obligations.RunEndsExactlyAtASelfJump := by
  intro s
  constructor
  · rintro ⟨hrun, hstep⟩
    rcases runningStep_cases hrun hstep with ⟨f, -, hs⟩ | ⟨hpc, ins, hw, -, hdone⟩
    · exact absurd (hrun.symm.trans (congrArg State.status hs)) nofun
    · rw [← hw]
      refine ⟨hrun, hpc, ?_⟩
      rcases completes_self hdone with ⟨nnn, rfl, hself⟩ | ⟨nnn, rfl, hself⟩
      · have hdigits : (encode (.jp nnn)).toNat = 0x1000 + nnn.toNat := encodingByHexDigits _
        exact .inl (by omega)
      · have hdigits : (encode (.jpV0 nnn)).toNat = 0xB000 + nnn.toNat := encodingByHexDigits _
        exact .inr (by omega)
  · rintro ⟨hrun, hpc, ⟨hc, hself⟩ | ⟨hc, hself⟩⟩
    · exact ⟨hrun, step_selfJump hrun hpc hc hself⟩
    · exact ⟨hrun, step_selfIndexedJump hrun hpc hc hself⟩

end Sys2Proof.Machine
end

section
/-!
PROOFS. The rules of the whole machine: who writes what (10_state.md R11 to R19, 20_memory.md R38), and that a register an
instruction does not name plays no part in it (R11).
-/

namespace Sys2Proof.Machine

/-! ### Who writes what -/

/-- Settles O47: raising keeps every register, completing keeps those the table does not list. -/
theorem registersWrittenAreTheTables : Obligations.RegistersWrittenAreTheTables := by
  intro ins s t k h hk
  rcases exec_cases h with ⟨f, -, rfl⟩ | hdone
  · rfl
  · exact hdone.reg k hk

/-- Settles O49. -/
theorem onlyIndexInstructionsWriteI : Obligations.OnlyIndexInstructionsWriteI := by
  intro ins s t h hne
  rcases exec_cases h with ⟨f, -, rfl⟩ | hdone
  · exact absurd rfl hne
  · exact hdone.i.resolve_left hne

/-- Settles O50: the one slot a call writes is the slot SP. -/
theorem onlyCallAndReturnTouchTheStack : Obligations.OnlyCallAndReturnTouchTheStack := by
  intro ins s t h
  rcases exec_cases h with ⟨f, -, rfl⟩ | hdone
  · exact ⟨fun _ hne => absurd rfl hne, fun hne => absurd rfl hne⟩
  · refine ⟨fun k hne => ?_, hdone.sp.resolve_left⟩
    rcases hdone.stack with hstack | ⟨hcall, hsp, hstack⟩
    · exact absurd (by rw [hstack]) hne
    · refine ⟨hcall, Decidable.byContradiction fun hk => hne ?_⟩
      rw [hstack, Vector.getElem_set_ne _ _ (Ne.symm hk)]

/-- Settles O51. -/
theorem onlyClearAndDrawChangeThePixels : Obligations.OnlyClearAndDrawChangeThePixels := by
  intro ins s t h hne
  rcases exec_cases h with ⟨f, -, rfl⟩ | hdone
  · exact absurd rfl hne
  · exact hdone.px.resolve_left hne

/-- Settles O52: a byte outside a transfer is kept, and the two stores transfer 3 and X + 1 bytes. -/
theorem onlyBcdAndStoreWriteMemory : Obligations.OnlyBcdAndStoreWriteMemory := by
  intro ins s t a h hne
  rcases exec_cases h with ⟨f, -, rfl⟩ | hdone
  · exact absurd rfl hne
  · rcases hdone.mem with hmem | ⟨bs, hmem, -, hstore⟩
    · exact absurd (by rw [readByte_def, hmem, readByte_def]) hne
    · have hin : s.i.toNat ≤ a ∧ a < s.i.toNat + bs.length := by
        by_contra hout
        apply hne
        rw [readByte_def, hmem, Memory.read_writeBytes_out bs _ _ _ (by omega), readByte_def]
      rcases hstore with ⟨x, rfl, hlen⟩ | ⟨x, rfl, hlen⟩
      · exact .inl ⟨x, rfl, by omega⟩
      · exact .inr ⟨x, rfl, by omega⟩

/-! ### A register that is not named -/

/-- Writes of two registers commute (R11). -/
theorem setReg_comm (s : State) {j k : Reg} (a b : Byte) (h : j ≠ k) :
    (s.setReg k b).setReg j a = (s.setReg j a).setReg k b := by
  have hv : (s.v.set k.val b).set j.val a = (s.v.set j.val a).set k.val b :=
    Vector.set_comm _ _ (fun e => h (Fin.ext e.symm))
  simp only [State.setReg, hv]

/-- A write of a register that is neither the destination nor VF commutes with the two writes of R91. -/
theorem setResultFlag_setReg_comm (s : State) {x k : Reg} (r b : Byte) (f : Bool) (hx : k ≠ x) (hf : k ≠ 15) :
    (s.setReg k b).setResultFlag x r f = (s.setResultFlag x r f).setReg k b := by
  rw [State.setResultFlag, setReg_comm s _ _ hx.symm]
  exact setReg_comm _ _ _ (show Config.flagReg ≠ k from hf.symm)

/-- The registers stored are V0 to VX (R114): another one plays no part. -/
theorem regsTo_setReg (s : State) {x k : Reg} (b : Byte) (h : ¬ k.val ≤ x.val) : (s.setReg k b).regsTo x = s.regsTo x := by
  rw [State.regsTo, State.regsTo, setReg_v, Vector.toList_set, List.take_set_of_le]
  omega

/-- The registers loaded are V0 to VX (R115): the write of another one commutes with the load. -/
theorem loadRegsTo_setReg_comm (s : State) {x k : Reg} (b : Byte) (a : Nat) (h : ¬ k.val ≤ x.val) :
    (s.setReg k b).loadRegsTo x a = (s.loadRegsTo x a).setReg k b := by
  have hv : ((s.setReg k b).loadRegsTo x a).v = ((s.loadRegsTo x a).setReg k b).v := by
    apply Vector.ext
    intro j hj
    have hreg : ((s.setReg k b).loadRegsTo x a).reg ⟨j, hj⟩ = ((s.loadRegsTo x a).setReg k b).reg ⟨j, hj⟩ := by
      rw [reg_loadRegsTo, reg_setReg, reg_setReg, reg_loadRegsTo, setReg_readByte]
      split_ifs with hle hk hk
      · exact absurd (hk ▸ hle) h
      all_goals rfl
    exact hreg
  unfold State.loadRegsTo State.setReg at hv ⊢
  dsimp only at hv ⊢
  rw [hv]

/-- The operands of a draw are VX and VY, its flag is VF (R126): the write of another register commutes with it. -/
theorem draw_setReg_comm (s : State) {x y k : Reg} (b : Byte) (n : Nat) (hx : k ≠ x) (hy : k ≠ y) (hf : k ≠ 15) :
    (s.setReg k b).draw x y n = (s.draw x y n).setReg k b := by
  simp only [State.draw, reg_setReg_ne s b hx.symm, reg_setReg_ne s b hy.symm, setReg_px, setReg_mem, setReg_i]
  generalize composite _ _ _ _ = out
  exact setReg_comm { s with px := out.1 } _ b (show Config.flagReg ≠ k from hf.symm)

/-- Whether a transfer fits, and the record if it does not, do not depend on the registers (R37). -/
theorem withTransfer_setReg {s done done' : State} {ins : Instr} {n : Nat} {k : Reg} {b : Byte}
    (h : done' = done.setReg k b) :
    (s.setReg k b).withTransfer ins n done'.nextInstr =
      onNext (fun t => t.setReg k b) (s.withTransfer ins n done.nextInstr) := by
  by_cases hfits : n = 0 ∨ s.i.toNat + n ≤ 4096
  · rw [withTransfer_fits (s := s.setReg k b) ins _ hfits, withTransfer_fits ins _ hfits, h]
    rfl
  · rw [withTransfer_faults (s := s.setReg k b) ins _ hfits, withTransfer_faults ins _ hfits]
    rfl

/-- Two answers are next states that differ by the write. -/
theorem next_setReg {r r' : Result} {t : State} {k : Reg} {b : Byte} (h : r = .next t) (h' : r' = .next (t.setReg k b)) :
    r' = onNext (fun t => t.setReg k b) r := by
  rw [h', h]
  rfl

/-- A skip on a condition that the write does not touch. -/
theorem next_skipIf_setReg {s : State} {c c' : Bool} {k : Reg} {b : Byte} (hc : c' = c) :
    Host.Outcome.next ((s.setReg k b).skipIf c') = onNext (fun t => t.setReg k b) (.next (s.skipIf c)) := by
  rw [hc]
  rfl

/-- A result that the write does not touch, written to another register. -/
theorem next_setReg_setReg {s : State} {r r' : Byte} {x k : Reg} {b : Byte} (hx : k ≠ x) (hr : r' = r) :
    Host.Outcome.next ((s.setReg k b).setReg x r').nextInstr =
      onNext (fun t => t.setReg k b) (.next (s.setReg x r).nextInstr) := by
  rw [hr, setReg_comm s r b hx.symm]
  rfl

/-- A result and a flag that the write does not touch, written to other registers. -/
theorem next_setResultFlag_setReg {s : State} {r r' : Byte} {f f' : Bool} {x k : Reg} {b : Byte} (hx : k ≠ x) (hk : k ≠ 15)
    (hr : r' = r) (hf : f' = f) :
    Host.Outcome.next ((s.setReg k b).setResultFlag x r' f').nextInstr =
      onNext (fun t => t.setReg k b) (.next (s.setResultFlag x r f).nextInstr) := by
  rw [hr, hf, setResultFlag_setReg_comm s r b f hx hk]
  rfl

/-- Settles O48: what an instruction reads is the same in both states, and what it writes lies elsewhere. -/
theorem unnamedRegistersPlayNoPart : Obligations.UnnamedRegistersPlayNoPart := by
  intro ins s k b hread hwrite
  have same : ∀ x, (k == x) = false → (s.setReg k b).reg x = s.reg x := fun x hx =>
    reg_setReg_ne s b (ne_of_beq_false hx).symm
  cases ins
  case cls | jp | ldI | skp | sknp | ldVxDt | ldDtVx | ldStVx | ldF => rfl
  case ret =>
    by_cases h : 0 < s.sp.val
    · exact next_setReg (execRet_held h) (execRet_held (s := s.setReg k b) h)
    · exact next_setReg (execRet_empty h) (execRet_empty (s := s.setReg k b) h)
  case call =>
    by_cases h : s.sp.val < 16
    · exact next_setReg (execCall_free h) (execCall_free (s := s.setReg k b) h)
    · exact next_setReg (execCall_full h) (execCall_full (s := s.setReg k b) h)
  case jpV0 nnn =>
    have htarget := congrArg (fun v => zext16 v + zext16 nnn) (same 0 hread)
    exact congrArg (fun a => Host.Outcome.next ((s.setReg k b).jumpTo a)) htarget
  case addI x =>
    have hi := congrArg (fun v => s.i + zext16 v) (same x hread)
    exact congrArg (fun i => Host.Outcome.next (State.nextInstr { s.setReg k b with i := i })) hi
  case seImm x nn | sneImm x nn => exact next_skipIf_setReg (by rw [same x hread])
  case seReg x y | sneReg x y =>
    obtain ⟨hx, hy⟩ := Bool.or_eq_false_iff.1 hread
    exact next_skipIf_setReg (by simp only [same x hx, same y hy])
  case ldImm => exact next_setReg_setReg (ne_of_beq_false hwrite) rfl
  case rnd => exact next_setReg_setReg (s := s.drawByte.2) (ne_of_beq_false hwrite) rfl
  case addImm x _ => exact next_setReg_setReg (ne_of_beq_false hwrite) (by rw [same x hread])
  case ldReg x y => exact next_setReg_setReg (ne_of_beq_false hwrite) (same y hread)
  case orReg x y | andReg x y | xorReg x y =>
    obtain ⟨hx, hy⟩ := Bool.or_eq_false_iff.1 hread
    exact next_setReg_setReg (ne_of_beq_false hx) (by simp only [same x hx, same y hy])
  case addReg x y | subReg x y | subnReg x y =>
    obtain ⟨hx, hy⟩ := Bool.or_eq_false_iff.1 hread
    obtain ⟨-, hf⟩ := Bool.or_eq_false_iff.1 hwrite
    exact next_setResultFlag_setReg (ne_of_beq_false hx) (ne_of_beq_false hf) (by simp only [same x hx, same y hy])
      (by simp only [same x hx, same y hy])
  case shr x _ | shl x _ =>
    obtain ⟨hx, hf⟩ := Bool.or_eq_false_iff.1 hwrite
    exact next_setResultFlag_setReg (ne_of_beq_false hx) (ne_of_beq_false hf) (by rw [same x hx]) (by rw [same x hx])
  case drw x y n =>
    obtain ⟨hx, hy⟩ := Bool.or_eq_false_iff.1 hread
    exact withTransfer_setReg (draw_setReg_comm s b n.toNat (ne_of_beq_false hx) (ne_of_beq_false hy)
      (ne_of_beq_false hwrite))
  case ldB x =>
    have hdigits := congrArg bcdDigits (same x hread)
    exact withTransfer_setReg (congrArg (fun bs => { s.setReg k b with mem := s.mem.writeBytes s.i.toNat bs }) hdigits)
  case store x =>
    have hregs := regsTo_setReg s b (of_decide_eq_false hread)
    exact withTransfer_setReg (congrArg (fun bs => { s.setReg k b with mem := s.mem.writeBytes s.i.toNat bs }) hregs)
  case load x => exact withTransfer_setReg (loadRegsTo_setReg_comm s b s.i.toNat (of_decide_eq_false hwrite))

end Sys2Proof.Machine
end

section
/-!
PROOFS. The jumps, the call and the return of 41_control_flow.md, alone and one after the other.
-/

namespace Sys2Proof.Machine

/-- R80: a jump changes PC alone. -/
theorem keepsAllButPc_jumpTo (s : State) (a : Word) : KeepsAllButPc s (s.jumpTo a) :=
  ⟨fun _ => rfl, rfl, rfl, rfl, rfl, rfl, fun _ => rfl⟩

/-- Settles O22. -/
theorem jumpSetsPc : Obligations.JumpSetsPc := fun nnn s =>
  ⟨s.jumpTo (zext16 nnn), rfl, zext16_toNat (by decide) nnn, keepsAllButPc_jumpTo s _⟩

/-- Settles O23: the sum of a byte and 12 bits fits in 16. -/
theorem indexedJumpAddsV0 : Obligations.IndexedJumpAddsV0 := fun nnn s =>
  ⟨s.jumpTo (zext16 (s.reg 0) + zext16 nnn), rfl, jpV0_target_toNat nnn s, keepsAllButPc_jumpTo s _⟩

/-- Settles O25: the two cases of a push. -/
theorem callPushesItsOwnAddress : Obligations.CallPushesItsOwnAddress := by
  intro nnn s
  constructor
  · intro hfree
    refine ⟨_, execCall_free hfree, rfl, zext16_toNat (by decide) nnn, fun k => ?_, fun _ => rfl, rfl, rfl, rfl, fun _ => rfl⟩
    rw [Vector.getElem_set]
    exact if_congr eq_comm rfl rfl
  · intro hfull
    exact ⟨encode (.call nnn), encodingByHexDigits _, execCall_full (by omega)⟩

/-- Settles O26: the two cases of a pop. -/
theorem returnAddsTwoToThePoppedAddress : Obligations.ReturnAddsTwoToThePoppedAddress := by
  intro s
  constructor
  · intro hheld
    exact ⟨_, execRet_held hheld, Nat.sub_add_cancel hheld, ⟨⟨s.sp.val - 1, by omega⟩, Nat.sub_add_cancel hheld, rfl⟩, rfl,
      fun _ => rfl, rfl, rfl, rfl, fun _ => rfl⟩
  · intro hempty
    exact execRet_empty (by omega)

/-! ### A call and its return -/

/-- Settles O27: the call's rule, then the return's; the slot that is popped is the one that was pushed. -/
theorem callThenReturnGoesOnAfterTheCall : Obligations.CallThenReturnGoesOnAfterTheCall := by
  intro s n hrun hpc hn hfree hword hhigh hlow
  have hnnn : (BitVec.ofNat 12 n).toNat = n := Nat.mod_eq_of_lt (by omega)
  have hcall : (encode (.call (BitVec.ofNat 12 n))).toNat = wordAtPc s :=
    (encodingByHexDigits _).trans ((congrArg (0x2000 + ·) hnnn).trans hword.symm)
  obtain ⟨t, ht, htsp, htpc, htstack, htreg, hti, htpx, htstatus, htmem⟩ :=
    (callPushesItsOwnAddress (BitVec.ofNat 12 n) s).1 hfree
  obtain ⟨u, hu, husp, ⟨k, hk, hupc⟩, -, hureg, hui, hupx, hustatus, humem⟩ :=
    (returnAddsTwoToThePoppedAddress t).1 (by omega)
  rw [hnnn] at htpc
  have hret : (encode .ret).toNat = wordAtPc t := by
    rw [wordAtPc, htpc, htmem, htmem, hhigh, hlow]
    rfl
  have hslot : t.stack[k.val] = s.pc := (htstack k).trans (if_pos (by omega))
  exact ⟨t, u, (step_eq_exec hrun hpc hcall).trans ht,
    (step_eq_exec (htstatus.trans hrun) (htpc.trans_le hn) hret).trans hu, by rw [hupc, hslot], Fin.ext (by omega),
    hustatus.trans (htstatus.trans hrun), fun k => (hureg k).trans (htreg k), hui.trans hti, hupx.trans htpx,
    fun a => (humem a).trans (htmem a)⟩

/-! ### Seventeen calls -/

/-- Calls that find free slots complete, each taking one (R83). -/
theorem execAll_calls {targets : List Addr12} {s : State} (hfree : s.sp.val + targets.length ≤ 16) :
    ∃ t, execAll (targets.map Instr.call) s = .next t ∧ t.sp.val = s.sp.val + targets.length ∧ t.status = s.status := by
  induction targets generalizing s with
  | nil => exact ⟨s, rfl, rfl, rfl⟩
  | cons nnn targets ih =>
    rw [List.length_cons] at hfree
    obtain ⟨t, ht, htsp, -, -, -, -, -, htstatus, -⟩ := (callPushesItsOwnAddress nnn s).1 (by omega)
    obtain ⟨u, hu, husp, hustatus⟩ := ih (s := t) (by omega)
    refine ⟨u, ?_, by rw [husp, htsp, List.length_cons]; omega, hustatus.trans htstatus⟩
    rw [List.map_cons, execAll, ht]
    exact hu

/-- Settles O28: sixteen calls fill the stack, and a call on a full stack overflows. -/
theorem seventeenthCallOverflows : Obligations.SeventeenthCallOverflows := by
  intro s targets last hempty hlen
  obtain ⟨t, ht, hsp, hstatus⟩ := execAll_calls (targets := targets) (s := s) (by omega)
  exact ⟨t, ht, by omega, hstatus, execCall_full (by omega)⟩

end Sys2Proof.Machine
end

section
/-!
PROOFS. The three ways a step of 40_step.md R70 goes without executing: the fetch raises, the decoder raises, the core is
faulted.
-/

namespace Sys2Proof.Machine

/-- Settles O8: the word fetched is one the decoder refuses. -/
theorem undefinedWordFaults : Obligations.UndefinedWordFaults := by
  intro s w hrun hpc hw hund
  have hfetch : fetchWord s = .ok w := fetchWord_eq_ok_of_toNat hpc hw
  have hdec := (wordDefined_eq_false_iff w).1 hund
  exact step_raise hrun (by simp [fetchInstr, hfetch, hdec])

/-- Settles O9: the fetch raises. -/
theorem fetchOutsideMemoryFaults : Obligations.FetchOutsideMemoryFaults := by
  intro s hrun hpc
  have hfetch := fetchWord_out (s := s) (by omega)
  exact step_raise hrun (by simp [fetchInstr, hfetch])

/-- Settles O10: the step of a faulted core answers its state, and the answer is read from the latch. -/
theorem faultedCoreStaysAsItIs : Obligations.FaultedCoreStaysAsItIs := fun s _ hf =>
  ⟨step_faulted hf, by rw [State.answer, hf]⟩

end Sys2Proof.Machine
end

section
/-!
PROOFS. What a reset leaves (10_state.md R23, R24; 70_reset_and_hazards.md R173).
-/

namespace Sys2Proof.Machine

/-- R23: every register is zero after the reset, whatever its number and image. -/
theorem boot_reg (n : Nat) (k : Reg) : (State.boot n).reg k = 0x00 := Vector.getElem_replicate k.isLt

/-- R23, D12: every stack slot is zero after the reset. -/
theorem boot_stackSlot (n : Nat) (k : Fin 16) : (State.boot n).stack[k.val] = 0x0000 := Vector.getElem_replicate k.isLt

/-- Settles O18. -/
theorem resetValues : Obligations.ResetValues :=
  ⟨reset_pc, rfl, rfl, reset_status, boot_reg 0, boot_stackSlot 0, fun _ => rfl⟩

/-- R172: the image of a machine that `Reset(rom)` answers fits, and the machine has the reset values and the image. -/
theorem hostReset_eq_ok {rom : List Byte} {s t : State} (h : hostReset rom s = .ok t) :
    t = { State.boot (s.draws + 1) with mem := imageAt 0x200 rom } := by
  by_cases hfit : rom.length ≤ 3583
  · rw [hostReset, construct_eq_ok _ hfit] at h
    cases h
    rfl
  · rw [hostReset, construct_eq_error _ (by omega)] at h
    cases h

/-- Settles O20: only the grid and the counter of free values depend on the number of the reset. -/
theorem resetDiscardsTheOldState : Obligations.ResetDiscardsTheOldState := by
  intro rom s s' t t' ht ht'
  rw [hostReset_eq_ok ht, hostReset_eq_ok ht']
  exact ⟨rfl, rfl, rfl, rfl, rfl, rfl, rfl⟩

/-- Settles O21: an image that fits is accepted in every state. -/
theorem resetOfAnyMachineRestarts : Obligations.ResetOfAnyMachineRestarts := fun _ s hfit =>
  ⟨_, construct_eq_ok (s.draws + 1) hfit, rfl, rfl, rfl, rfl, boot_reg (s.draws + 1), boot_stackSlot (s.draws + 1)⟩

end Sys2Proof.Machine
end

section
/-!
PROOFS. The flag-defining instructions of 42_alu.md R98 to R103, the random load R105, FX1E of 43_index_memory.md R112 and the
stubs of 45_placeholders.md.
-/

namespace Sys2Proof.Machine

/-! ### Results and flags as numbers -/

/-- R12, D17: a flag byte is 1 or 0. -/
theorem flagByte_toNat (f : Bool) : (flagByte f).toNat = if f = true then 1 else 0 := by
  cases f <;> rfl

/-- R99, R101: the difference modulo 256. -/
theorem sub_toNat (a b : Byte) :
    (a - b).toNat = if a.toNat ≥ b.toNat then a.toNat - b.toNat else a.toNat + 256 - b.toNat := by
  have ha := a.isLt
  have hb := b.isLt
  rw [BitVec.toNat_sub]
  split <;> omega

/-- R98: the carry as the number VF holds. -/
theorem carryOut_toNat (a b : Byte) : (flagByte (carryOut a b)).toNat = if a.toNat + b.toNat > 255 then 1 else 0 := by
  simp only [flagByte_toNat, carryOut, decide_eq_true_eq]

/-- R99, R101: no borrow as the number VF holds. -/
theorem noBorrow_toNat (a b : Byte) : (flagByte (noBorrow a b)).toNat = if a.toNat ≥ b.toNat then 1 else 0 := by
  simp only [flagByte_toNat, noBorrow, decide_eq_true_eq]

/-- R100, R102: a bit shifted out as the number VF holds. -/
theorem flagByte_getLsbD_toNat (a : Byte) (i : Nat) : (flagByte (a.getLsbD i)).toNat = a.toNat / 2 ^ i % 2 := by
  rw [← Nat.toNat_testBit, BitVec.getLsbD, flagByte_toNat]
  cases a.toNat.testBit i <;> rfl

/-! ### The instructions -/

/-- R91, R75: the two writes of a flag-defining instruction and the next instruction: VX is the result where X is not 15, VF
the flag, PC is 2 higher and the rest is kept. -/
theorem setResultFlag_nextInstr_frame (s : State) (x : Reg) {r : Byte} {f : Bool} {result flag : Nat} (hr : r.toNat = result)
    (hf : (flagByte f).toNat = flag) :
    let t := (s.setResultFlag x r f).nextInstr
    (x ≠ 15 → (t.reg x).toNat = result) ∧ (t.reg 15).toNat = flag ∧ (∀ k, k ≠ x → k ≠ 15 → t.reg k = s.reg k) ∧
      t.pc = s.pc + 2 ∧ KeepsAllButRegsAndPc s t := by
  refine ⟨fun hx => ?_, ?_, fun k hx hk => reg_setResultFlag_ne s r f hx hk, rfl, rfl, rfl, rfl, rfl, rfl, fun _ => rfl⟩
  · rw [nextInstr_reg, reg_setResultFlag_dest s r f hx, hr]
  · rw [nextInstr_reg, reg_setResultFlag_flag, hf]

/-- Settles O30. -/
theorem addSetsSumAndCarry : Obligations.AddSetsSumAndCarry := fun x _ s =>
  ⟨_, rfl, setResultFlag_nextInstr_frame s x (BitVec.toNat_add _ _) (carryOut_toNat _ _)⟩

/-- Settles O31. -/
theorem subtractsSetDifferenceAndNoBorrow : Obligations.SubtractsSetDifferenceAndNoBorrow := fun x _ s =>
  ⟨⟨_, rfl, setResultFlag_nextInstr_frame s x (sub_toNat _ _) (noBorrow_toNat _ _)⟩,
   ⟨_, rfl, setResultFlag_nextInstr_frame s x (sub_toNat _ _) (noBorrow_toNat _ _)⟩⟩

/-- Settles O32: bit 0 of a byte is its remainder by 2, bit 7 its quotient by 128. -/
theorem shiftsMoveOneBitIntoVf : Obligations.ShiftsMoveOneBitIntoVf := by
  intro x y s
  have hright : (s.reg x >>> 1).toNat = (s.reg x).toNat / 2 := BitVec.toNat_ushiftRight _ _
  have hleft : (s.reg x <<< 1).toNat = 2 * (s.reg x).toNat % 256 := by
    rw [BitVec.toNat_shiftLeft, Nat.shiftLeft_eq, Nat.mul_comm]
  have hbit0 : (flagByte (bitOutRight (s.reg x))).toNat = (s.reg x).toNat % 2 := by
    rw [bitOutRight, flagByte_getLsbD_toNat, pow_zero, Nat.div_one]
  have hbit7 : (flagByte (bitOutLeft (s.reg x))).toNat = (s.reg x).toNat / 128 := by
    have hlt := (s.reg x).isLt
    rw [bitOutLeft, flagByte_getLsbD_toNat]
    omega
  exact ⟨⟨_, rfl, setResultFlag_nextInstr_frame s x hright hbit0⟩, ⟨_, rfl, setResultFlag_nextInstr_frame s x hleft hbit7⟩⟩

/-- Settles O33: a write of VX after the draw of a byte, which moves the counter. -/
theorem randomLoadMasksAFreeByte : Obligations.RandomLoadMasksAFreeByte := by
  intro x nn s
  obtain ⟨hreg, hpc, hkeep⟩ := setReg_nextInstr_frame s.drawByte.2 x (nn &&& s.drawByte.1)
  refine ⟨_, rfl, fun b => ?_, hreg, hpc, Nat.succ_ne_self s.draws, hkeep⟩
  rw [nextInstr_reg, reg_setReg_same]
  exact BitVec.getLsbD_and

/-- Settles O35. -/
theorem addIndexWrapsAt16Bits : Obligations.AddIndexWrapsAt16Bits := by
  intro x s
  have hsum : (s.i + zext16 (s.reg x)).toNat = (s.i.toNat + (s.reg x).toNat) % 65536 := by
    rw [BitVec.toNat_add, zext16_toNat (by decide)]
  exact ⟨_, rfl, hsum, setI_nextInstr_frame s _⟩

/-- Settles O46: each of the six is a skip on a fixed condition. -/
theorem stubsOnlyMovePc : Obligations.StubsOnlyMovePc := by
  intro x s
  have next : s.nextInstr.pc = s.pc + 2 ∧ KeepsAllButPc s s.nextInstr := ⟨rfl, keepsAllButPc_skipIf s false⟩
  exact ⟨⟨_, rfl, next⟩, ⟨_, rfl, rfl, keepsAllButPc_skipIf s true⟩, ⟨_, rfl, next⟩, ⟨_, rfl, next⟩, ⟨_, rfl, next⟩,
    ⟨_, rfl, next⟩⟩

end Sys2Proof.Machine
end

section
/-!
PROOFS. The memory transfers of 43_index_memory.md R113 to R115, where they fit and where they do not, and what a later load
or fetch reads of a store.
-/

namespace Sys2Proof.Machine

/-! ### Stores -/

/-- The bytes stored from I on, then the next instruction: what FX33 and FX55 do where they fit (R37, R75). -/
def storedAtI (s : State) (bs : List Byte) : State := State.nextInstr { s with mem := s.mem.writeBytes s.i.toNat bs }

/-- R113, where the three bytes exist. -/
theorem exec_ldB_fits {x : Reg} {s : State} (h : s.i.toNat + 2 ≤ 0xFFF) :
    exec (.ldB x) s = .next (storedAtI s (bcdDigits (s.reg x))) :=
  withTransfer_fits (n := 3) (.ldB x) _ (by omega)

/-- R114, where the X + 1 bytes exist. -/
theorem exec_store_fits {x : Reg} {s : State} (h : s.i.toNat + x.val ≤ 0xFFF) :
    exec (.store x) s = .next (storedAtI s (s.regsTo x)) :=
  withTransfer_fits (n := x.val + 1) (.store x) _ (by omega)

/-- R37: a store keeps every byte outside it, adds 2 to PC and keeps the rest. -/
theorem storedAtI_frame (s : State) (bs : List Byte) :
    (∀ a, a < s.i.toNat ∨ s.i.toNat + bs.length ≤ a → (storedAtI s bs).readByte a = s.readByte a) ∧
      (storedAtI s bs).pc = s.pc + 2 ∧ KeepsAllButMemAndPc s (storedAtI s bs) :=
  ⟨fun a ha => Memory.read_writeBytes_out bs s.mem s.i.toNat a ha, rfl, fun _ => rfl, rfl, rfl, rfl, rfl, rfl⟩

/-- R34: after a store that fits, byte `k` of it is read at I + k. -/
theorem readByte_storedAtI {s : State} {bs : List Byte} {k : Nat} {b : Byte} (hwf : MemCanonical s)
    (hfits : s.i.toNat + bs.length ≤ 4096) (hk : bs[k]? = some b) : (storedAtI s bs).readByte (s.i.toNat + k) = b :=
  Memory.read_writeBytes_in bs s.mem s.i.toNat k b hwf hfits hk

/-- Settles O36: the three digits, each less than 256, are the three bytes stored. -/
theorem bcdStoresThreeDigits : Obligations.BcdStoresThreeDigits := by
  intro x s hwf hfits
  have hx := (s.reg x).isLt
  have hlen := bcdDigits_length (s.reg x)
  have hread : ∀ k n : Nat, (bcdDigits (s.reg x))[k]? = some (BitVec.ofNat 8 n) → n < 256 →
      ((storedAtI s (bcdDigits (s.reg x))).readByte (s.i.toNat + k)).toNat = n := fun k n hk hn => by
    rw [readByte_storedAtI hwf (by omega) hk, BitVec.toNat_ofNat, Nat.mod_eq_of_lt hn]
  obtain ⟨hout, hkeep⟩ := storedAtI_frame s (bcdDigits (s.reg x))
  exact ⟨_, exec_ldB_fits hfits, hread 0 _ rfl (by omega), hread 1 _ rfl (by omega), hread 2 _ rfl (by omega),
    fun a ha => hout a (by omega), hkeep⟩

/-- Settles O37: the registers are the bytes stored. -/
theorem storeWritesV0ToVx : Obligations.StoreWritesV0ToVx := by
  intro x s hwf hfits
  have hlen := regsTo_length s x
  obtain ⟨hout, hkeep⟩ := storedAtI_frame s (s.regsTo x)
  exact ⟨_, exec_store_fits hfits, fun k hk => readByte_storedAtI hwf (by omega) (regsTo_getElem? s x k hk),
    fun a ha => hout a (by omega), hkeep⟩

/-! ### Loads, and what reads a store -/

/-- R115, where the X + 1 bytes exist. -/
theorem exec_load_fits {x : Reg} {s : State} (h : s.i.toNat + x.val ≤ 0xFFF) :
    exec (.load x) s = .next (s.loadRegsTo x s.i.toNat).nextInstr :=
  withTransfer_fits (n := x.val + 1) (.load x) _ (by omega)

/-- R115, R75: writing registers and going on to the next instruction adds 2 to PC and keeps the rest. -/
theorem setRegs_nextInstr_frame (s : State) (v : Vector Byte 16) :
    (State.nextInstr { s with v := v }).pc = s.pc + 2 ∧ KeepsAllButRegsAndPc s (State.nextInstr { s with v := v }) :=
  ⟨rfl, rfl, rfl, rfl, rfl, rfl, fun _ => rfl⟩

/-- Settles O38: the registers up to X are the bytes read, the others are kept. -/
theorem loadReadsV0ToVx : Obligations.LoadReadsV0ToVx := by
  intro x s hfits
  refine ⟨_, exec_load_fits hfits, fun k hk => ?_, fun k hk => ?_, setRegs_nextInstr_frame s _⟩
  · rw [nextInstr_reg, reg_loadRegsTo, if_pos hk]
  · rw [nextInstr_reg, reg_loadRegsTo, if_neg (by omega)]

/-- Settles O39: each transfers its own number of bytes. -/
theorem transferOutsideMemoryFaults : Obligations.TransferOutsideMemoryFaults := by
  intro x y n s
  exact ⟨fun _ _ => withTransfer_faults _ _ (by omega), fun _ => withTransfer_faults _ _ (by omega),
    fun _ => withTransfer_faults _ _ (by omega), fun _ => withTransfer_faults _ _ (by omega)⟩

/-- Settles O40: the load reads the bytes that the store wrote. -/
theorem storeThenLoadRestoresV0ToVx : Obligations.StoreThenLoadRestoresV0ToVx := by
  intro x s t u hwf hfits hstore humem hui
  obtain ⟨t', ht', hbytes, -, -, -, hti, -⟩ := storeWritesV0ToVx x s hwf hfits
  cases hstore.symm.trans ht'
  rw [hti] at hui
  obtain ⟨v, hv, hregs, -⟩ := loadReadsV0ToVx x u (by rwa [hui])
  refine ⟨v, hv, fun k hk => ?_⟩
  rw [hregs k hk, hui, readByte_def, humem]
  exact hbytes k hk

/-- Settles O41: PC after the store is I, and the two bytes there are V0 and V1. -/
theorem storedBytesAreFetchedNext : Obligations.StoredBytesAreFetchedNext := by
  intro x s hwf hx hi hfits
  obtain ⟨t, ht, hbytes, -, hpc, -⟩ := storeWritesV0ToVx x s hwf hfits
  have hpc : t.pc = s.i := hpc.trans hi.symm
  have hhigh : t.readByte s.i.toNat = s.reg 0 := hbytes 0 (Nat.zero_le _)
  have hlow : t.readByte (s.i.toNat + 1) = s.reg 1 := hbytes 1 hx
  refine ⟨t, _, ht, fetchWord_ok (by rw [hpc]; omega), ?_⟩
  rw [fetched_toNat, wordAtPc, hpc, hhigh, hlow]

end Sys2Proof.Machine
end

section
/-!
PROOFS. The display instructions of 44_display.md, and the compositor called twice.
-/

namespace Sys2Proof.Machine

/-- Settles O42: the one word of 00E0 is its encoding. -/
theorem clearTurnsEveryPixelOff : Obligations.ClearTurnsEveryPixelOff := by
  refine ⟨fun s => ⟨_, rfl, pixel_clearGrid, rfl, fun _ => rfl, rfl, rfl, rfl, rfl, fun _ => rfl⟩, fun w => ⟨fun h => ?_, ?_⟩⟩
  · exact (encodeOfDecodeIsIdentity w .cls h).symm
  · rintro rfl
    exact decodeOfEncodeIsIdentity .cls

/-- Settles O44: the sprite's pixels are inverted twice, and the second call finds set what the first found clear. -/
theorem compositeTwiceRestoresTheGrid : Obligations.CompositeTwiceRestoresTheGrid := by
  intro g x y rows hlen
  obtain ⟨hinv, hkeep, -⟩ := compositeIsPixelwiseXor g x y rows hlen
  obtain ⟨hinv', hkeep', hcol'⟩ := compositeIsPixelwiseXor (composite g x y rows).1 x y rows hlen
  constructor
  · refine grid_ext fun px py => ?_
    by_cases hc : SpriteCovers x y rows px py
    · rw [hinv' px py hc, hinv px py hc, Bool.not_not]
    · rw [hkeep' px py hc, hkeep px py hc]
  · rw [hcol']
    refine exists_congr fun px => exists_congr fun py => and_congr_right fun hc => ?_
    rw [hinv px py hc, Bool.not_eq_true']

/-- R126: a draw that fits composites the bytes at I and writes the collision to VF. -/
theorem exec_drw_fits {x y : Reg} {n : Nibble} {s : State} (h : n.toNat = 0 ∨ s.i.toNat + n.toNat ≤ 4096) :
    exec (.drw x y n) s =
      let out := composite s.px (s.reg x) (s.reg y) (s.mem.readBytes s.i.toNat n.toNat)
      .next (State.setFlag { s with px := out.1 } out.2).nextInstr :=
  withTransfer_fits (.drw x y n) (s.draw x y n.toNat).nextInstr h

/-- Settles O45: the rows are the bytes at I; without rows nothing is drawn and nothing collides. -/
theorem drawCompositesAndSetsVf : Obligations.DrawCompositesAndSetsVf := by
  intro x y n s rows hfits hlen hrows
  have hread : s.mem.readBytes s.i.toNat n.toNat = rows := by
    refine List.ext_getElem? fun r => ?_
    rw [Memory.readBytes_getElem?]
    split
    · next hr => exact (hrows r hr).symm
    · next hr => exact (List.getElem?_eq_none (by omega)).symm
  have hdone := exec_drw_fits (x := x) (y := y) (n := n) (s := s) (by omega)
  rw [hread] at hdone
  have hnone : n.toNat = 0 → composite s.px (s.reg x) (s.reg y) rows = (s.px, false) := fun hn => by
    rw [List.eq_nil_of_length_eq_zero (hlen.trans hn), composite_nil]
  generalize composite s.px (s.reg x) (s.reg y) rows = out at hdone hnone ⊢
  refine ⟨_, hdone, rfl, ?_, fun hn => ?_, fun k hk => ?_, rfl, rfl, rfl, rfl, rfl, fun _ => rfl⟩
  · exact (congrArg BitVec.toNat (reg_setReg_same _ _ _)).trans (flagByte_toNat out.2)
  · rw [hnone hn]
    exact ⟨rfl, reg_setReg_same _ _ _⟩
  · exact reg_setReg_ne _ _ (show k ≠ Config.flagReg from hk)

end Sys2Proof.Machine
end
